-- ==== Sys2Proof/Word.lean ====
section
/-! DEFINITION. The widths of the engine (spec 00_scope R8) as exact-width bit vectors (10_state R29). -/

namespace Sys2Proof

/-- A 64-bit plaintext or ciphertext block (R8 `BLOCK_W`, R19). -/
abbrev Block := BitVec 64

/-- A key as written, its eight parity bits included (R8 `KEY_W`, R21). -/
abbrev Key := BitVec 64

/-- A Feistel half `L` or `R` (R8 `HALF_W`). -/
abbrev Half := BitVec 32

/-- A key-schedule half `C` or `D` (R8 `CD_W`). -/
abbrev KeyHalf := BitVec 28

/-- A compressed key `C ‖ D` (R8 `KEY_EFF_W`). -/
abbrev CompressedKey := BitVec 56

/-- A round key (R8 `SUBKEY_W`). -/
abbrev Subkey := BitVec 48

/-- An S-box input (R8 `CHUNK_W`). -/
abbrev Chunk := BitVec 6

/-- An S-box output (R8 `NIBBLE_W`). -/
abbrev Nibble := BitVec 4

/-- The RoundKeySet: exactly sixteen subkeys (R8 `ROUNDS`, R19, R162). -/
abbrev RoundKeySet := Vector Subkey 16

/-- A command word `CW[65:0]`, format `C` (30_encoding R100). -/
abbrev CmdWord := BitVec 66

/-- A response word `RW[65:0]`, format `S` (30_encoding R101). -/
abbrev RspWord := BitVec 66

end Sys2Proof
end

