-- ==== Sys2Proof/Syntax.lean ====
section
/-! DEFINITION. The commands of `DESCMD`: one constructor for each row of spec/opcode_table.json (30_encoding R102). -/

namespace Sys2Proof

/-- A command with its 64-bit `data` field (R100, R103): there is no other field. -/
inductive Instr where
  /-- `ENC b`: encrypt one block under the current key (43_cipher R207). -/
  | enc (block : Block)
  /-- `DEC b`: decrypt one block under the current key (43_cipher R208). -/
  | dec (block : Block)
  /-- `LDKEY k`: load (replace) the key (41_key_schedule R166). -/
  | ldkey (key : Key)
  /-- The reserved opcode `0b11`, with the `data` field the engine ignores (30_encoding R104). -/
  | reserved3 (data : BitVec 64)
  deriving DecidableEq, Repr

end Sys2Proof
end

