-- ==== Sys2Proof/WellFormed.lean ====
section
/-! DEFINITION. What is checked of the constants and of an instruction before it has a meaning. -/

namespace Sys2Proof

/-- A permutation table for input width `N` and output width `M` is well formed when it has exactly `M` entries,
each in `1..N` (20_memory R67). -/
def permTableWF (N M : Nat) (entries : List Nat) : Bool :=
  entries.length == M && entries.all fun t => decide (1 ≤ t) && decide (t ≤ N)

/-- `SHIFTS` is well formed when it has exactly sixteen entries, each in `0..27` (20_memory R67). -/
def shiftsWF (amounts : List Nat) : Bool :=
  amounts.length == 16 && amounts.all fun a => decide (a < 28)

/-- An S-box is well formed when it has exactly four rows of exactly sixteen entries, each in `0..15`
(20_memory R67). -/
def sboxWF (rows : List (List Nat)) : Bool :=
  rows.length == 4 && rows.all fun row => row.length == 16 && row.all fun e => decide (e < 16)

/-- Every command is well formed: every 64-bit value is a legal operand of every command (30_encoding R103,
41_key_schedule R165), and the reserved opcode is an encoding the engine answers (30_encoding R104), so no command
is refused before it is given its meaning. A wider operand cannot be written (60_exceptions R242). -/
def Instr.wellFormed : Instr → Bool
  | .enc _ => true
  | .dec _ => true
  | .ldkey _ => true
  | .reserved3 _ => true

end Sys2Proof
end

