-- ==== Sys2Proof/Decode.lean ====
section
/-! DEFINITION. Decoding of command words, total on every 66-bit word (30_encoding R102), and the encoder. -/

namespace Sys2Proof

/-- The `op` field, `CW[65:64]` (30_encoding R100). -/
def cmdWordOp (w : CmdWord) : BitVec 2 := w.extractLsb' 64 2

/-- The `data` field, `CW[63:0]`, used whole and unchanged (30_encoding R100, R103). -/
def cmdWordData (w : CmdWord) : BitVec 64 := w.extractLsb' 0 64

/-- Bit `op[1]`, also called `k`: 1 = the operand is a key (30_encoding R100). -/
def cmdWordIsKey (w : CmdWord) : Bool := w.getLsbD 65

/-- Bit `op[0]`, also called `d`: the direction, 0 = encrypt, 1 = decrypt (30_encoding R100). -/
def cmdWordDir (w : CmdWord) : BitVec 1 := w.extractLsb' 64 1

/-- The command a word selects (30_encoding R102); the fourth opcode is the reserved one (R104). -/
def decode (w : CmdWord) : Instr :=
  if cmdWordOp w = 0b00#2 then .enc (cmdWordData w)
  else if cmdWordOp w = 0b01#2 then .dec (cmdWordData w)
  else if cmdWordOp w = 0b10#2 then .ldkey (cmdWordData w)
  else .reserved3 (cmdWordData w)

/-- The `op` value of a command (30_encoding R102). -/
def Instr.op : Instr → BitVec 2
  | .enc _ => 0b00#2
  | .dec _ => 0b01#2
  | .ldkey _ => 0b10#2
  | .reserved3 _ => 0b11#2

/-- The 64-bit operand of a command (30_encoding R103). -/
def Instr.data : Instr → BitVec 64
  | .enc b => b
  | .dec b => b
  | .ldkey k => k
  | .reserved3 d => d

/-- The command word `op ‖ data` (30_encoding R100, R109). -/
def encode (i : Instr) : CmdWord := i.op ++ i.data

/-- The mask of every row of the opcode map (30_encoding R102). -/
def opcodeMask : CmdWord := 0x30000000000000000#66

/-- The match of a command's row of the opcode map (30_encoding R102). -/
def Instr.opcodeMatch : Instr → CmdWord
  | .enc _ => 0x00000000000000000#66
  | .dec _ => 0x10000000000000000#66
  | .ldkey _ => 0x20000000000000000#66
  | .reserved3 _ => 0x30000000000000000#66

/-- The command read from an instruction whose bits are `w`, bit 0 the least significant bit of the one 66-bit word
(30_encoding R106): bits from `nbits` on are zero; bits above bit 65 do not exist, so a number that has one is no
command word. -/
def decodeTableWord (nbits w : Nat) : Option Instr :=
  let bits := w % 2 ^ nbits
  if bits < 2 ^ 66 then some (decode (BitVec.ofNat 66 bits)) else none

end Sys2Proof
end

