-- ==== Sys2Proof/Config.lean ====
section
/-! DEFINITION. What the spec leaves open: free values and the one implementation constant a step can meet.
None has a body, so no proof can know its value. -/

namespace Sys2Proof

/-- What `RC` holds between commands: no defined value (10_state R26, 93 U9). Free value, log entry 4. -/
opaque Config.freeRc : Nat → BitVec 5

/-- What `L` holds between commands: no defined value (10_state R27, 93 U9). Free value, log entry 4. -/
opaque Config.freeL : Nat → Half

/-- What `R` holds between commands: no defined value (10_state R27, 93 U9). Free value, log entry 4. -/
opaque Config.freeR : Nat → Half

/-- What `C` holds between commands: no defined value (10_state R27, 93 U9). Free value, log entry 4. -/
opaque Config.freeC : Nat → KeyHalf

/-- What `D` holds between commands: no defined value (10_state R27, 93 U9). Free value, log entry 4. -/
opaque Config.freeD : Nat → KeyHalf

/-- What `DIR` holds between commands: no defined value (10_state R27, 93 U9). Free value, log entry 4. -/
opaque Config.freeDir : Nat → BitVec 1

/-- What the `KEY` register reads as where it holds no value (10_state R31, 93 U8): only a state no run reaches
reads it. Free value, log entry 2. -/
opaque Config.freeKey : Nat → Key

/-- What a stored RoundKeySet reads as where it holds no value (10_state R31): only a state no run of the cached
engine reaches reads it. Free value, log entry 9. -/
opaque Config.freeRoundKeys : Nat → RoundKeySet

/-- How many untaken responses beyond the first the engine can hold before it stops accepting commands
(70_reset_and_hazards R279 gives no number). Log entry 6. -/
opaque Config.rspExtra : Nat

end Sys2Proof
end

