-- ==== Sys2Proof/Machine/Rom.lean ====
section
/-! DEFINITION. The table ROM: the contents of every table (20_memory R52 to R66), its linear map (R69) and the read
primitive (R70). The contents are constants, so the ROM is no field of State (10_state R30). -/

namespace Sys2Proof.Machine

/-- A permutation table from `N` input bits to `M` output bits, well formed by construction: a malformed one is the
source's configuration defect and cannot be built (20_memory R67, 60_exceptions R241, 93 U1). -/
structure PermTable (N M : Nat) where
  /-- `T[0], ..., T[M-1]`: the FIPS positions of the input bits copied (00_scope R14). -/
  entries : List Nat
  wf : permTableWF N M entries = true

/-- The rotation list, well formed by construction (20_memory R67). -/
structure ShiftTable where
  amounts : List Nat
  wf : shiftsWF amounts = true

/-- An S-box as printed, rows top to bottom and columns left to right, well formed by construction (20_memory R59,
R67). -/
structure SBox where
  rows : List (List Nat)
  wf : sboxWF rows = true

/-- Table `IP`, initial permutation (20_memory R52). -/
def ipTable : PermTable 64 64 where
  entries :=
   [58, 50, 42, 34, 26, 18, 10, 2,
    60, 52, 44, 36, 28, 20, 12, 4,
    62, 54, 46, 38, 30, 22, 14, 6,
    64, 56, 48, 40, 32, 24, 16, 8,
    57, 49, 41, 33, 25, 17, 9, 1,
    59, 51, 43, 35, 27, 19, 11, 3,
    61, 53, 45, 37, 29, 21, 13, 5,
    63, 55, 47, 39, 31, 23, 15, 7]
  wf := by decide

/-- Table `FP`, final permutation, the source's IP⁻¹ (20_memory R53). -/
def fpTable : PermTable 64 64 where
  entries :=
   [40, 8, 48, 16, 56, 24, 64, 32,
    39, 7, 47, 15, 55, 23, 63, 31,
    38, 6, 46, 14, 54, 22, 62, 30,
    37, 5, 45, 13, 53, 21, 61, 29,
    36, 4, 44, 12, 52, 20, 60, 28,
    35, 3, 43, 11, 51, 19, 59, 27,
    34, 2, 42, 10, 50, 18, 58, 26,
    33, 1, 41, 9, 49, 17, 57, 25]
  wf := by decide

/-- Table `E`, expansion (20_memory R54). -/
def eTable : PermTable 32 48 where
  entries :=
   [32, 1, 2, 3, 4, 5,
    4, 5, 6, 7, 8, 9,
    8, 9, 10, 11, 12, 13,
    12, 13, 14, 15, 16, 17,
    16, 17, 18, 19, 20, 21,
    20, 21, 22, 23, 24, 25,
    24, 25, 26, 27, 28, 29,
    28, 29, 30, 31, 32, 1]
  wf := by decide

/-- Table `P`, round permutation (20_memory R55). -/
def pTable : PermTable 32 32 where
  entries :=
   [16, 7, 20, 21,
    29, 12, 28, 17,
    1, 15, 23, 26,
    5, 18, 31, 10,
    2, 8, 24, 14,
    32, 27, 3, 9,
    19, 13, 30, 6,
    22, 11, 4, 25]
  wf := by decide

/-- Table `PC1`, permuted choice 1 (20_memory R56). -/
def pc1Table : PermTable 64 56 where
  entries :=
   [57, 49, 41, 33, 25, 17, 9,
    1, 58, 50, 42, 34, 26, 18,
    10, 2, 59, 51, 43, 35, 27,
    19, 11, 3, 60, 52, 44, 36,
    63, 55, 47, 39, 31, 23, 15,
    7, 62, 54, 46, 38, 30, 22,
    14, 6, 61, 53, 45, 37, 29,
    21, 13, 5, 28, 20, 12, 4]
  wf := by decide

/-- Table `PC2`, permuted choice 2 (20_memory R57). -/
def pc2Table : PermTable 56 48 where
  entries :=
   [14, 17, 11, 24, 1, 5,
    3, 28, 15, 6, 21, 10,
    23, 19, 12, 4, 26, 8,
    16, 7, 27, 20, 13, 2,
    41, 52, 31, 37, 47, 55,
    30, 40, 51, 45, 33, 48,
    44, 49, 39, 56, 34, 53,
    46, 42, 50, 36, 29, 32]
  wf := by decide

/-- Table `SHIFTS` (20_memory R58). -/
def shiftTable : ShiftTable where
  amounts := [1, 1, 2, 2, 2, 2, 2, 2, 1, 2, 2, 2, 2, 2, 2, 1]
  wf := by decide

/-- S-box `S1`, source index j = 0 (20_memory R59). -/
def sbox1 : SBox where
  rows :=
   [[14, 4, 13, 1, 2, 15, 11, 8, 3, 10, 6, 12, 5, 9, 0, 7],
    [0, 15, 7, 4, 14, 2, 13, 1, 10, 6, 12, 11, 9, 5, 3, 8],
    [4, 1, 14, 8, 13, 6, 2, 11, 15, 12, 9, 7, 3, 10, 5, 0],
    [15, 12, 8, 2, 4, 9, 1, 7, 5, 11, 3, 14, 10, 0, 6, 13]]
  wf := by decide

/-- S-box `S2`, source index j = 1 (20_memory R60). -/
def sbox2 : SBox where
  rows :=
   [[15, 1, 8, 14, 6, 11, 3, 4, 9, 7, 2, 13, 12, 0, 5, 10],
    [3, 13, 4, 7, 15, 2, 8, 14, 12, 0, 1, 10, 6, 9, 11, 5],
    [0, 14, 7, 11, 10, 4, 13, 1, 5, 8, 12, 6, 9, 3, 2, 15],
    [13, 8, 10, 1, 3, 15, 4, 2, 11, 6, 7, 12, 0, 5, 14, 9]]
  wf := by decide

/-- S-box `S3`, source index j = 2 (20_memory R61). -/
def sbox3 : SBox where
  rows :=
   [[10, 0, 9, 14, 6, 3, 15, 5, 1, 13, 12, 7, 11, 4, 2, 8],
    [13, 7, 0, 9, 3, 4, 6, 10, 2, 8, 5, 14, 12, 11, 15, 1],
    [13, 6, 4, 9, 8, 15, 3, 0, 11, 1, 2, 12, 5, 10, 14, 7],
    [1, 10, 13, 0, 6, 9, 8, 7, 4, 15, 14, 3, 11, 5, 2, 12]]
  wf := by decide

/-- S-box `S4`, source index j = 3 (20_memory R62). -/
def sbox4 : SBox where
  rows :=
   [[7, 13, 14, 3, 0, 6, 9, 10, 1, 2, 8, 5, 11, 12, 4, 15],
    [13, 8, 11, 5, 6, 15, 0, 3, 4, 7, 2, 12, 1, 10, 14, 9],
    [10, 6, 9, 0, 12, 11, 7, 13, 15, 1, 3, 14, 5, 2, 8, 4],
    [3, 15, 0, 6, 10, 1, 13, 8, 9, 4, 5, 11, 12, 7, 2, 14]]
  wf := by decide

/-- S-box `S5`, source index j = 4 (20_memory R63). -/
def sbox5 : SBox where
  rows :=
   [[2, 12, 4, 1, 7, 10, 11, 6, 8, 5, 3, 15, 13, 0, 14, 9],
    [14, 11, 2, 12, 4, 7, 13, 1, 5, 0, 15, 10, 3, 9, 8, 6],
    [4, 2, 1, 11, 10, 13, 7, 8, 15, 9, 12, 5, 6, 3, 0, 14],
    [11, 8, 12, 7, 1, 14, 2, 13, 6, 15, 0, 9, 10, 4, 5, 3]]
  wf := by decide

/-- S-box `S6`, source index j = 5 (20_memory R64). -/
def sbox6 : SBox where
  rows :=
   [[12, 1, 10, 15, 9, 2, 6, 8, 0, 13, 3, 4, 14, 7, 5, 11],
    [10, 15, 4, 2, 7, 12, 9, 5, 6, 1, 13, 14, 0, 11, 3, 8],
    [9, 14, 15, 5, 2, 8, 12, 3, 7, 0, 4, 10, 1, 13, 11, 6],
    [4, 3, 2, 12, 9, 5, 15, 10, 11, 14, 1, 7, 6, 0, 8, 13]]
  wf := by decide

/-- S-box `S7`, source index j = 6 (20_memory R65). -/
def sbox7 : SBox where
  rows :=
   [[4, 11, 2, 14, 15, 0, 8, 13, 3, 12, 9, 7, 5, 10, 6, 1],
    [13, 0, 11, 7, 4, 9, 1, 10, 14, 3, 5, 12, 2, 15, 8, 6],
    [1, 4, 11, 13, 12, 3, 7, 14, 10, 15, 6, 8, 0, 5, 9, 2],
    [6, 11, 13, 8, 1, 4, 10, 7, 9, 5, 0, 15, 14, 2, 3, 12]]
  wf := by decide

/-- S-box `S8`, source index j = 7 (20_memory R66). -/
def sbox8 : SBox where
  rows :=
   [[13, 2, 8, 4, 6, 15, 11, 1, 10, 9, 3, 14, 5, 0, 12, 7],
    [1, 15, 13, 8, 10, 3, 7, 4, 12, 5, 6, 11, 0, 14, 9, 2],
    [7, 11, 4, 1, 9, 12, 14, 2, 0, 6, 10, 13, 15, 3, 5, 8],
    [2, 1, 14, 7, 4, 10, 8, 13, 15, 12, 9, 0, 3, 5, 6, 11]]
  wf := by decide

/-- `SBoxTable[j]`: box `S(j+1)`; j = 0 serves the most significant chunk (20_memory R59, 42_round_function R185). -/
def sboxOf (j : Fin 8) : SBox :=
  match j with
  | 0 => sbox1
  | 1 => sbox2
  | 2 => sbox3
  | 3 => sbox4
  | 4 => sbox5
  | 5 => sbox6
  | 6 => sbox7
  | 7 => sbox8

/-- The entries of an S-box in ROM order: `Sn[row][col]` is entry `16·row + col` (20_memory R71). -/
def SBox.entries (b : SBox) : List Nat := b.rows.flatten

/-- The tables of the ROM (20_memory R51). -/
inductive Table where
  | ip
  | fp
  | e
  | p
  | pc1
  | pc2
  | shifts
  /-- Box `S(j+1)`. -/
  | s (j : Fin 8)
  deriving DecidableEq, Repr

/-- The entries of a table in index order (20_memory R51). -/
def Table.contents : Table → List Nat
  | .ip => ipTable.entries
  | .fp => fpTable.entries
  | .e => eTable.entries
  | .p => pTable.entries
  | .pc1 => pc1Table.entries
  | .pc2 => pc2Table.entries
  | .shifts => shiftTable.amounts
  | .s j => (sboxOf j).entries

/-- The table id `tsel` (20_memory R69). -/
def Table.tsel : Table → Nat
  | .ip => 0
  | .fp => 1
  | .e => 2
  | .p => 3
  | .pc1 => 4
  | .pc2 => 5
  | .shifts => 6
  | .s j => 8 + j.val

/-- The size of a table in entries, as the map prints it (20_memory R69). -/
def Table.size : Table → Nat
  | .ip => 64
  | .fp => 64
  | .e => 48
  | .p => 32
  | .pc1 => 56
  | .pc2 => 48
  | .shifts => 16
  | .s _ => 64

/-- The linear base address of a table (20_memory R69). -/
def Table.base : Table → Nat
  | .ip => 0
  | .fp => 64
  | .e => 128
  | .p => 176
  | .pc1 => 208
  | .pc2 => 264
  | .shifts => 312
  | .s j => 328 + 64 * j.val

/-- Every table of the ROM, in the order of the map (20_memory R69). -/
def Table.all : List Table :=
  [.ip, .fp, .e, .p, .pc1, .pc2, .shifts, .s 0, .s 1, .s 2, .s 3, .s 4, .s 5, .s 6, .s 7]

/-- The table a `tsel` names; id 7 and ids from 16 on name none (20_memory R69, 93 U13). -/
def Table.ofTsel (id : Nat) : Option Table := Table.all.find? fun T => T.tsel == id

/-- The read primitive `ROM(T, i)`: entry `i` (0-based) of table `T`. An index past the table names no entry, and no
rule forms one (20_memory R70). -/
def rom (T : Table) (i : Nat) : Option Nat := T.contents[i]?

/-- The ROM at a linear address: 840 entries, addresses from 840 on do not exist (20_memory R69, 93 U13). -/
def romLinear (a : Nat) : Option Nat :=
  match Table.all.find? fun T => decide (T.base ≤ a) && decide (a < T.base + T.size) with
  | some T => rom T (a - T.base)
  | none => none

/-- `SHIFTS[i]`, the rotation amount of key-schedule iteration `i` (41_key_schedule R156). -/
def shiftAmount (i : Fin 16) : Nat :=
  shiftTable.amounts[i.val]'(by decide +revert)

end Sys2Proof.Machine
end

