-- ==== Sys2Proof/Machine/Operands.lean ====
section
/-! DEFINITION. Operand forms: every place where a narrower operand is cut from a wider one (30_encoding R103), the
two bit numberings (00_scope R11, R12) and the host's byte order (20_memory R73). -/

namespace Sys2Proof.Machine

/-- `fb_N(v, k)`: the bit of `v` at FIPS position `k`, counted from 1 at the most significant end (00_scope R12). -/
def fipsBit {N : Nat} (v : BitVec N) (k : Nat) : Bool := v.getLsbD (N - k)

/-- `hi32(x)` = `x[63:32]` (00_scope R13). -/
def hi32 (x : BitVec 64) : Half := x.extractLsb' 32 32

/-- `lo32(x)` = `x[31:0]` (00_scope R13). -/
def lo32 (x : BitVec 64) : Half := x.extractLsb' 0 32

/-- `hi28(x)` = `x[55:28]` (00_scope R13). -/
def hi28 (x : CompressedKey) : KeyHalf := x.extractLsb' 28 28

/-- `lo28(x)` = `x[27:0]` (00_scope R13). -/
def lo28 (x : CompressedKey) : KeyHalf := x.extractLsb' 0 28

/-- `chunk_j = x[47-6j : 42-6j]`, j = 0 the most significant (42_round_function R183). -/
def chunk (x : BitVec 48) (j : Fin 8) : Chunk := x.extractLsb' (42 - 6 * j.val) 6

/-- The S-box row of a chunk, `2·c[5] + c[0]` (42_round_function R184; conflict C3). -/
def chunkRow (c : Chunk) : BitVec 2 := c.extractLsb' 5 1 ++ c.extractLsb' 0 1

/-- The S-box column of a chunk, `c[4:1]` (42_round_function R184; conflict C3). -/
def chunkCol (c : Chunk) : BitVec 4 := c.extractLsb' 1 4

/-- The ROM index of a chunk in its box, `c[5] ‖ c[0] ‖ c[4:1]`, that is `16·row + col` (20_memory R71). -/
def chunkIndex (c : Chunk) : BitVec 6 := chunkRow c ++ chunkCol c

/-- The 64-bit word a host presents for the eight bytes `b₀ .. b₇`: `b₀ ‖ b₁ ‖ ... ‖ b₇` (20_memory R73). -/
def packBytes (b : Vector (BitVec 8) 8) : BitVec 64 :=
  b[0] ++ b[1] ++ b[2] ++ b[3] ++ b[4] ++ b[5] ++ b[6] ++ b[7]

/-- Byte `i` of a word in the host's order: byte 0 is `data[63:56]`, byte 7 is `data[7:0]` (20_memory R73, 92 D8). -/
def byteOfWord (x : BitVec 64) (i : Fin 8) : BitVec 8 := x.extractLsb' (56 - 8 * i.val) 8

/-- The eight parity positions of a key are FIPS positions 8, 16, ..., 64 (10_state R21): the key with those bits
cleared. -/
def clearParity (k : Key) : Key := k &&& 0xFEFEFEFEFEFEFEFE#64

end Sys2Proof.Machine
end

