-- ==== Sys2Proof/Machine/Perm.lean ====
section
/-! DEFINITION. The bit-permutation unit PERM (40_permute). -/

namespace Sys2Proof.Machine

/-- The bits of a list read as a number, the first bit the most significant. -/
def bitsToNat (bits : List Bool) : Nat := bits.foldl (fun y b => 2 * y + b.toNat) 0

/-- `permute(T, x)`: entry `T[i]` gives output bit `M-1-i` the input bit `N - T[i]` (40_permute R130, conflict C2).
The entries are read in index order, so the first one makes the most significant output bit. -/
def permute {N M : Nat} (T : PermTable N M) (x : BitVec N) : BitVec M :=
  BitVec.ofNat M (bitsToNat (T.entries.map fun t => x.getLsbD (N - t)))

/-- `IP64(x) = permute(IP, x)` (40_permute R135). -/
def ip64 (x : BitVec 64) : BitVec 64 := permute ipTable x

/-- `FP64(x) = permute(FP, x)` (40_permute R136). -/
def fp64 (x : BitVec 64) : BitVec 64 := permute fpTable x

/-- `E48(r) = permute(E, r)` (40_permute R137). -/
def e48 (r : Half) : BitVec 48 := permute eTable r

/-- `P32(s) = permute(P, s)` (40_permute R138). -/
def p32 (s : BitVec 32) : Half := permute pTable s

/-- `PC1_56(k) = permute(PC1, k)` (40_permute R139). -/
def pc1 (k : Key) : CompressedKey := permute pc1Table k

/-- `PC2_48(cd) = permute(PC2, cd)` (40_permute R140). -/
def pc2 (cd : CompressedKey) : Subkey := permute pc2Table cd

/-- An `n`-bit operand read off the 64-bit input bus: right-aligned, the unused high bits zero (40_permute R142). A bus
word with one of those bits set carries no `n`-bit operand: it is outside the function's domain (R133), and the model
refuses it, as 93_implementation_defined U5 treats such values (DEDUCED, log entry 23). -/
def busOperand (n : Nat) (x : BitVec 64) : Option (BitVec n) :=
  if x.toNat < 2 ^ n then some (x.setWidth n) else none

/-- The PERM unit with a table-select input and 64-bit buses, operand and result right-aligned and the unused high
bits zero (40_permute R142); `tsel` 0 to 5 are its tables (20_memory R69). It answers `none` for any other `tsel` and
for a bus word that carries no operand of the table's width (log entry 23). -/
def permUnit (tsel : Nat) (x : BitVec 64) : Option (BitVec 64) :=
  match Table.ofTsel tsel with
  | some .ip => some (ip64 x)
  | some .fp => some (fp64 x)
  | some .e => (busOperand 32 x).map fun r => (e48 r).setWidth 64
  | some .p => (busOperand 32 x).map fun s => (p32 s).setWidth 64
  | some .pc1 => some ((pc1 x).setWidth 64)
  | some .pc2 => (busOperand 56 x).map fun cd => (pc2 cd).setWidth 64
  | some .shifts => none
  | some (.s _) => none
  | none => none

end Sys2Proof.Machine
end

