-- ==== Sys2Proof/Machine/KeySchedule.lean ====
section
/-! DEFINITION. The key schedule KS (41_key_schedule R150 to R162). -/

namespace Sys2Proof.Machine

/-- `rotl28(v, n)`: rotation to the left inside the 28-bit field, the amount taken modulo 28, the shifts those of
unbounded numbers and the result masked (41_key_schedule R153, R155; conflict C9). -/
def rotl28 (v : KeyHalf) (n : Nat) : KeyHalf :=
  let m := n % 28
  BitVec.ofNat 28 (((v.toNat <<< m) ||| (v.toNat >>> (28 - m))) &&& 0xFFFFFFF)

/-- `rotr28(v, n) = rotl28(v, 28 − (n mod 28))` (41_key_schedule R154). -/
def rotr28 (v : KeyHalf) (n : Nat) : KeyHalf := rotl28 v (28 - n % 28)

/-- `C₀ = hi28(permute(PC1, key))` (41_key_schedule R151, R152). -/
def keyC0 (key : Key) : KeyHalf := hi28 (pc1 key)

/-- `D₀ = lo28(permute(PC1, key))` (41_key_schedule R151, R152). -/
def keyD0 (key : Key) : KeyHalf := lo28 (pc1 key)

/-- The subkey of a pair of halves, `permute(PC2, C ‖ D)` (41_key_schedule R158). -/
def subkeyOf (c d : KeyHalf) : Subkey := pc2 (c ++ d)

/-- The iterations of the schedule for a list of rotation amounts, from halves `c` and `d`: both halves are rotated
by the same amount, separately, and the subkey is taken after the rotation (41_key_schedule R156 to R158). -/
def scheduleFrom : List Nat → KeyHalf → KeyHalf → List Subkey
  | [], _, _ => []
  | n :: rest, c, d =>
    subkeyOf (rotl28 c n) (rotl28 d n) :: scheduleFrom rest (rotl28 c n) (rotl28 d n)

theorem scheduleFrom_length (amounts : List Nat) (c d : KeyHalf) :
    (scheduleFrom amounts c d).length = amounts.length := by
  induction amounts generalizing c d with
  | nil => rfl
  | cons n rest ih => simp [scheduleFrom, ih]

/-- The sixteen subkeys made from the halves `C₀`, `D₀` (41_key_schedule R157, R158). -/
def scheduleHalves (c d : KeyHalf) : RoundKeySet :=
  ⟨(scheduleFrom shiftTable.amounts c d).toArray, by
    rw [List.size_toArray, scheduleFrom_length]; rfl⟩

/-- `schedule(key)`: the sixteen subkeys `[K₁, ..., K₁₆]`, element 0 being `K₁` (41_key_schedule R150, R159,
R162). -/
def schedule (key : Key) : RoundKeySet := scheduleHalves (keyC0 key) (keyD0 key)

/-- `s_n`, the sum of the first `n` rotation amounts (41_key_schedule R160). -/
def cumulativeShift (n : Nat) : Nat := (shiftTable.amounts.take n).sum

/-- The subkeys in the order a decryption consumes them, made from `C₀`, `D₀` by right rotations, for the amounts in
the order they are undone (41_key_schedule R161). -/
def reverseScheduleFrom : List Nat → KeyHalf → KeyHalf → List Subkey
  | [], _, _ => []
  | n :: rest, c, d => subkeyOf c d :: reverseScheduleFrom rest (rotr28 c n) (rotr28 d n)

/-- `[K₁₆, ..., K₁]` made without storing the subkeys (41_key_schedule R161). -/
def reverseSchedule (key : Key) : List Subkey :=
  reverseScheduleFrom shiftTable.amounts.reverse (keyC0 key) (keyD0 key)

end Sys2Proof.Machine
end

