-- ==== Sys2Proof/Machine/RoundFunction.lean ====
section
/-! DEFINITION. The round function F (42_round_function R180 to R188). -/

namespace Sys2Proof.Machine

theorem SBox.entries_length (b : SBox) : b.entries.length = 64 := by
  have h := b.wf
  simp only [sboxWF, Bool.and_eq_true, beq_iff_eq, List.all_eq_true] at h
  obtain ⟨hlen, hrows⟩ := h
  rw [SBox.entries, List.length_flatten,
    List.map_congr_left (g := fun _ => 16) (fun row hrow => (hrows row hrow).1)]
  simp [hlen]

/-- The S-box lookup of a chunk, `ROM(S(j+1), 16·row + col)`; the index is 6 bits wide and the box has 64 entries,
so it is always in range (42_round_function R185, 20_memory R71). -/
def sboxLookup (b : SBox) (c : Chunk) : Nibble :=
  BitVec.ofNat 4 (b.entries[(chunkIndex c).toNat]'(by rw [b.entries_length]; exact (chunkIndex c).isLt))

/-- `n_j`, the output nibble of chunk `j` (42_round_function R185). -/
def sboxNibble (x : BitVec 48) (j : Fin 8) : Nibble := sboxLookup (sboxOf j) (chunk x j)

/-- `s = n_0 ‖ n_1 ‖ ... ‖ n_7`, the nibble of chunk 0 the most significant (42_round_function R186). -/
def substitute (x : BitVec 48) : BitVec 32 :=
  sboxNibble x 0 ++ sboxNibble x 1 ++ sboxNibble x 2 ++ sboxNibble x 3 ++
    sboxNibble x 4 ++ sboxNibble x 5 ++ sboxNibble x 6 ++ sboxNibble x 7

/-- `f(r, k)`: expand, mix the round key, substitute, permute (42_round_function R188). The spec's `f`, the source's
`round`. -/
def roundF (r : Half) (k : Subkey) : Half := p32 (substitute (e48 r ^^^ k))

end Sys2Proof.Machine
end

