-- ==== Sys2Proof/Machine/Cipher.lean ====
section
/-! DEFINITION. The block function of CTRL: the Feistel pipe in its IP/FP wrapper (43_cipher R200 to R206). -/

namespace Sys2Proof.Machine

/-- One Feistel round on the pair `(L, R)`; both right-hand sides use the old halves (43_cipher R202). -/
def feistelRound (lr : Half × Half) (k : Subkey) : Half × Half := (lr.2, lr.1 ^^^ roundF lr.2 k)

/-- `(L₀, R₀)`, the halves of the permuted block (43_cipher R201). -/
def splitBlock (b : Block) : Half × Half := (hi32 (ip64 b), lo32 (ip64 b))

/-- The rounds for a list of keys, in the order they are used (43_cipher R202). -/
def feistelRounds (ks : List Subkey) (lr : Half × Half) : Half × Half := ks.foldl feistelRound lr

/-- The pre-output `R₁₆ ‖ L₁₆`, the halves in the opposite order to the split, through the final permutation
(43_cipher R203, R204). -/
def joinBlock (lr : Half × Half) : Block := fp64 (lr.2 ++ lr.1)

/-- `crypt(b, ks)` (43_cipher R200). -/
def crypt (b : Block) (ks : RoundKeySet) : Block := joinBlock (feistelRounds ks.toList (splitBlock b))

/-- `encrypt(b, key)`: round `n` uses `K_n` (43_cipher R205). -/
def encrypt (b : Block) (key : Key) : Block := crypt b (schedule key)

/-- `decrypt(b, key)`: round `n` uses `K_(17-n)` (43_cipher R206). -/
def decrypt (b : Block) (key : Key) : Block := crypt b (schedule key).reverse

end Sys2Proof.Machine
end

