-- ==== Sys2Proof/Machine/State.lean ====
section
/-! DEFINITION. The state of the engine, its reset value, and the reasons a step could stop. -/

namespace Sys2Proof.Machine

/-- The error responses of the engine (60_exceptions R243), which a model records as faults of the run (R252,
93 U10, U11). No step ends in one: the spec gives each its effect, one response and an unchanged state (R250), so a
step that meets one answers a NEXT state and `State.recorded` keeps the first. -/
inductive Fault where
  /-- `E_NOKEY` (`err` = 1). Recorded by `ENC` and `DEC` when `KEYV` = 0 (60_exceptions R244). Safe: the response and
  the unchanged state are the spec's. -/
  | eNokey
  /-- `E_ILLOP` (`err` = 2). Recorded by the reserved opcode `0b11` (60_exceptions R245). Safe: the response and the
  unchanged state are the spec's. -/
  | eIllop
  deriving DecidableEq, Repr

/-- Reasons to refuse an instruction. -/
inductive Refusal where
  /-- An instruction `exec` gives no meaning to. Raised by no arm: every command has its meaning. Safe. -/
  | notModelled (mnemonic : String)
  deriving DecidableEq, Repr

/-- The response to a command: `OK(v)`, `ERR(E_NOKEY)` or `ERR(E_ILLOP)`; `err` = 3 is never produced (30_encoding
R101, 60_exceptions R243, 93 U12). -/
inductive Response where
  | ok (data : BitVec 64)
  | eNokey
  | eIllop
  deriving DecidableEq, Repr

/-- The transient working registers of one block command (10_state R26, R27). -/
structure Work where
  /-- `RC`, the number of Feistel rounds already applied, 0 to 16 (R26). -/
  rc : BitVec 5
  /-- `L`, the left Feistel half after `RC` rounds (R27). -/
  l : Half
  /-- `R`, the right Feistel half after `RC` rounds (R27). -/
  r : Half
  /-- `C`, the high key-schedule half (R27). -/
  c : KeyHalf
  /-- `D`, the low key-schedule half (R27). -/
  d : KeyHalf
  /-- `DIR`, 0 for `ENC` and 1 for `DEC` (R27). -/
  dir : BitVec 1
  deriving DecidableEq, Repr

/-- The state of the engine. INVENTORY.md's '## State' lists every field with its rule. -/
structure State where
  /-- `KEY`: the 64-bit key register, which may hold no value (10_state R21, R31). -/
  key : Option Key
  /-- `KEYV`: the key-valid flag (10_state R22). -/
  keyv : Bool
  /-- `RC`, `L`, `R`, `C`, `D`, `DIR` (10_state R26, R27). -/
  work : Work
  /-- The sequencer runs a block command; else it is idle (43_cipher R212, 70_reset_and_hazards R270). -/
  busy : Bool
  /-- The command words the host offers and the engine has not accepted, in order (30_encoding R107). -/
  cmds : List CmdWord
  /-- The responses produced and not yet taken by the host, oldest first (30_encoding R101, R107). -/
  rsps : List Response
  /-- The first error response of the run, which the model records and never clears (60_exceptions R252). Not a
  register of the engine (60_exceptions R246). -/
  recorded : Option Fault
  /-- The model's own counter, from which the free values are taken (log entry 4). -/
  free : Nat
  deriving DecidableEq, Repr

/-- The machine right after reset (10_state R31, 70_reset_and_hazards R270): no key, engine idle, nothing offered and
nothing answered. The transient registers are unspecified there: the zeros are the model's DESIGN CHOICE (log
entry 3), and so is the counter's zero (log entry 4). -/
def State.reset : State where
  key := none
  keyv := false
  work := { rc := 0#5, l := 0#32, r := 0#32, c := 0#28, d := 0#28, dir := 0#1 }
  busy := false
  cmds := []
  rsps := []
  recorded := none
  free := 0

end Sys2Proof.Machine
end

