-- ==== Sys2Proof/Machine/Flags.lean ====
section
/-! DEFINITION. The one flag, `KEYV`, and the one status view (10_state R22, R28). There are no condition codes: no
command computes a carry, zero, sign or overflow (R28), so there is no other flag computation. -/

namespace Sys2Proof.Machine

/-- `STATUS[0]` = `KEYV`, read-only (10_state R28). -/
def State.status (s : State) : BitVec 1 := BitVec.ofBool s.keyv

/-- `KEYV <- 1` (10_state R22): only a key load does this. -/
def State.setKeyv (s : State) : State := { s with keyv := true }

/-- `KEYV <- 0` (10_state R22): only reset does this. -/
def State.clearKeyv (s : State) : State := { s with keyv := false }

end Sys2Proof.Machine
end

