-- ==== Sys2Proof/Machine/Ops.lean ====
section
/-! DEFINITION. The named operations over the state: the key register, answering a command (an error response among
the answers), and accepting a command word. -/

namespace Sys2Proof.Machine

/-- `KEY <- k`, all 64 bits at once, parity bits included (10_state R21, 41_key_schedule R166). -/
def State.writeKey (k : Key) (s : State) : State := { s with key := some k }

/-- The key a block command reads (10_state R21). A command reads it only while `KEYV` = 1, and then it holds a value
(R22); in a state no run reaches it may not, and it then reads as a free value (log entry 2). -/
def State.keyBits (s : State) : Key := s.key.getD (Config.freeKey s.free)

/-- `K[1..16]`, the view of `KEY` (10_state R24). -/
def State.roundKeySet (s : State) : RoundKeySet := schedule s.keyBits

/-- The transient registers between commands: no defined value (10_state R26, R27), so free values (log entry 4). -/
def Work.undefined (n : Nat) : Work where
  rc := Config.freeRc n
  l := Config.freeL n
  r := Config.freeR n
  c := Config.freeC n
  d := Config.freeD n
  dir := Config.freeDir n

/-- The fault of the run that a response records, if it is an error response (60_exceptions R252). -/
def Response.fault? : Response → Option Fault
  | .ok _ => none
  | .eNokey => some .eNokey
  | .eIllop => some .eIllop

/-- The first fault of the run is kept and never cleared (60_exceptions R252). -/
def State.record (f : Option Fault) (s : State) : State :=
  { s with recorded := s.recorded.or f }

/-- The command ends: its one response is queued after the earlier ones (30_encoding R101, 20_memory R80), the engine
is idle and the transient registers hold no defined value (10_state R26, R27). -/
def State.respond (r : Response) (s : State) : State :=
  { s.record r.fault? with
    rsps := s.rsps ++ [r]
    busy := false
    work := Work.undefined s.free
    free := s.free + 1 }

/-- The whole effect of an error, the engine's only exception (60_exceptions R250): one response with `err` ≠ 0, the
architectural state unchanged, the engine idle. Nothing is saved, so there is no return from it (R251). -/
def State.respondError (f : Fault) (s : State) : State :=
  match f with
  | .eNokey => s.respond .eNokey
  | .eIllop => s.respond .eIllop

/-- Whether the engine can hold one more response: with none pending it can; otherwise up to `Config.rspExtra` further
ones (70_reset_and_hazards R279; log entry 6). -/
def State.hasRoom (s : State) : Bool :=
  match s.rsps with
  | [] => true
  | _ :: more => decide (more.length < Config.rspExtra)

/-- `cmd_ready`: the engine can accept a command word; while it cannot, the host waits (30_encoding R107, R108). -/
def State.cmdReady (s : State) : Bool := !s.busy && s.hasRoom

/-- The acceptance of the oldest offered command word, in a state in which `cmd_valid` and `cmd_ready` are both 1
(30_encoding R107). -/
def State.accept (s : State) : Option (CmdWord × State) :=
  match s.cmdReady, s.cmds with
  | true, w :: rest => some (w, { s with cmds := rest })
  | true, [] => none
  | false, _ => none

/-- The word of the next instruction placed where `step` accepts it: offered first, with the engine idle and room for
its response. `bits` is the whole 66-bit word; a number with a bit above bit 65 is no command word, and nothing is
offered for it. -/
def State.offerNext (bits : Nat) (s : State) : State :=
  if bits < 2 ^ 66 then
    { s with
      cmds := BitVec.ofNat 66 bits :: s.cmds
      busy := false
      rsps := if s.hasRoom then s.rsps else [] }
  else s

end Sys2Proof.Machine
end

