-- ==== Sys2Proof/Machine/Sequencer.lean ====
section
/-! DEFINITION. The sequencing of a block command over the transient registers (43_cipher R212): one start, sixteen
rounds, one finish. The subkeys are made one per round, forwards for `ENC` (41_key_schedule R157) and backwards for
`DEC` (R161), as an engine that does not store them makes them (R164, `RKS_CACHED` = false; log entries 9 and 10). -/

namespace Sys2Proof.Machine

/-- `start`: `DIR`, the permuted and split block, `RC` = 0, and the halves of the compressed key (43_cipher R212, R201;
41_key_schedule R151, R152). -/
def Work.start (dir : BitVec 1) (b : Block) (key : Key) : Work where
  rc := 0#5
  l := hi32 (ip64 b)
  r := lo32 (ip64 b)
  c := keyC0 key
  d := keyD0 key
  dir := dir

/-- The key-schedule iteration of the next round: `RC`, which is below 16 there, names iteration `RC` for `ENC` and
iteration `15 - RC`, the one that made `K_(16-RC)`, for `DEC` (43_cipher R205, R206). -/
def Work.iteration (w : Work) : Fin 16 :=
  let i := (w.rc.extractLsb' 0 4).toFin
  if w.dir = 0#1 then i else i.rev

/-- The subkey of the next round, with the halves `C` and `D` after it: rotated left and then read for `ENC`
(41_key_schedule R157, R158), read and then rotated right for `DEC` (R161). -/
def Work.nextSubkey (w : Work) : Subkey × KeyHalf × KeyHalf :=
  let n := shiftAmount w.iteration
  if w.dir = 0#1 then
    (subkeyOf (rotl28 w.c n) (rotl28 w.d n), rotl28 w.c n, rotl28 w.d n)
  else
    (subkeyOf w.c w.d, rotr28 w.c n, rotr28 w.d n)

/-- `round`, enabled while `RC` < 16 (43_cipher R212, R202). -/
def Work.round (w : Work) : Work :=
  let k := w.nextSubkey
  { rc := w.rc + 1#5
    l := w.r
    r := w.l ^^^ roundF w.r k.1
    c := k.2.1
    d := k.2.2
    dir := w.dir }

/-- `n` rounds, one after another. -/
def Work.rounds : Nat → Work → Work
  | 0, w => w
  | n + 1, w => Work.rounds n w.round

/-- What `finish` answers: `permute(FP, R ‖ L)` (43_cipher R212, R203, R204). -/
def Work.result (w : Work) : Block := joinBlock (w.l, w.r)

/-- The rounds still to do, so that `RC` becomes 16 (43_cipher R212). -/
def Work.complete (w : Work) : Work := Work.rounds (16 - w.rc.toNat) w

/-- `start` on the engine: a block command is accepted with a key loaded (43_cipher R212). -/
def State.startBlock (dir : BitVec 1) (b : Block) (s : State) : State :=
  { s with busy := true, work := Work.start dir b s.keyBits }

/-- `round` on the engine (43_cipher R212). -/
def State.roundBlock (s : State) : State := { s with work := s.work.round }

/-- `finish` on the engine: the response, and the engine is idle (43_cipher R212). -/
def State.finishBlock (s : State) : State := s.respond (.ok s.work.result)

/-- The rest of the block command in flight, whole (20_memory R76: a block command never partially completes). -/
def State.completeBlock (s : State) : State := { s with work := s.work.complete }.finishBlock

/-- The first micro-step of a block command: `E_NOKEY` when no key is loaded (60_exceptions R244), else `start`. -/
def State.beginBlock (dir : BitVec 1) (b : Block) (s : State) : State :=
  if s.keyv then s.startBlock dir b else s.respondError .eNokey

/-- A block command as one atomic transition (43_cipher R207, R208, 20_memory R76). -/
def State.blockCommand (dir : BitVec 1) (b : Block) (s : State) : State :=
  if s.keyv then (s.startBlock dir b).completeBlock else s.respondError .eNokey

/-- A key load as one atomic transition (41_key_schedule R166, R167). -/
def State.loadKey (k : Key) (s : State) : State := ((s.writeKey k).setKeyv).respond (.ok 0#64)

/-- The first micro-step of a command: the whole command, but for a block command with a key loaded, which starts. -/
def State.beginCommand (i : Instr) (s : State) : State :=
  match i with
  | .enc b => s.beginBlock 0#1 b
  | .dec b => s.beginBlock 1#1 b
  | .ldkey k => s.loadKey k
  | .reserved3 _ => s.respondError .eIllop

/-- One micro-step of the engine (43_cipher R212): with a block in flight a round while `RC` < 16 and else the finish;
with none, the acceptance of the next offered command, or nothing where none can be accepted. -/
def microStep (s : State) : State :=
  if s.busy then
    if s.work.rc.toNat < 16 then s.roundBlock else s.finishBlock
  else
    match s.accept with
    | some (w, s') => s'.beginCommand (decode w)
    | none => s

/-- `n` micro-steps. -/
def microSteps : Nat → State → State
  | 0, s => s
  | n + 1, s => microSteps n (microStep s)

end Sys2Proof.Machine
end

