-- ==== Sys2Proof/Machine/BlockCommands.lean ====
section
/-! DEFINITION. The two block commands (43_cipher R207, R208). -/

namespace Sys2Proof.Machine

/-- `ENC b`: `ERR(E_NOKEY)` when `KEYV` = 0, else `OK(encrypt(b, KEY))`; no architectural state is written (43_cipher
R207, R210). `DIR` is `op[0]` = 0. -/
def execEnc (b : Block) (s : State) : Host.Outcome State Fault Refusal := .next (s.blockCommand 0#1 b)

/-- `DEC b`: `ERR(E_NOKEY)` when `KEYV` = 0, else `OK(decrypt(b, KEY))`; no architectural state is written (43_cipher
R208, R210). `DIR` is `op[0]` = 1. -/
def execDec (b : Block) (s : State) : Host.Outcome State Fault Refusal := .next (s.blockCommand 1#1 b)

end Sys2Proof.Machine
end

