-- ==== Sys2Proof/Machine/KeyCommands.lean ====
section
/-! DEFINITION. The key command (41_key_schedule R166). -/

namespace Sys2Proof.Machine

/-- `LDKEY k`: `KEY <- k`, `KEYV <- 1`, `OK(0)`; it cannot fail and reads no state (41_key_schedule R166). -/
def execLdkey (k : Key) (s : State) : Host.Outcome State Fault Refusal := .next (s.loadKey k)

end Sys2Proof.Machine
end

