-- ==== Sys2Proof/Machine/ReservedCommand.lean ====
section
/-! DEFINITION. The reserved opcode (30_encoding R104, 60_exceptions R245). -/

namespace Sys2Proof.Machine

/-- `op` = `0b11`: `ERR(E_ILLOP)` whatever `data` and `KEYV` are, no state change, and the next command runs normally
(30_encoding R104, 60_exceptions R245). -/
def execReserved3 (_data : BitVec 64) (s : State) : Host.Outcome State Fault Refusal :=
  .next (s.respondError .eIllop)

end Sys2Proof.Machine
end

