-- ==== Sys2Proof/Machine/Dispatch.lean ====
section
/-! DEFINITION. One arm for each constructor of Instr (30_encoding R102). -/

namespace Sys2Proof.Machine

def exec (i : Instr) (s : State) : Host.Outcome State Fault Refusal :=
  match i with
  | .enc block => Sys2Proof.Machine.execEnc block s
  | .dec block => Sys2Proof.Machine.execDec block s
  | .ldkey key => Sys2Proof.Machine.execLdkey key s
  | .reserved3 data => Sys2Proof.Machine.execReserved3 data s

end Sys2Proof.Machine
end

