-- ==== Sys2Proof/Machine/Step.lean ====
section
/-! DEFINITION. One step of the engine: one command, whole (20_memory R76, R80). -/

namespace Sys2Proof.Machine

/-- One step. A block command in flight is completed (only micro-steps leave one in flight). Otherwise the oldest
offered command word is accepted, decoded and executed; where none can be accepted, none being offered or the engine
having no room for a response, the engine waits and nothing changes (30_encoding R107, R108, 60_exceptions R259,
70_reset_and_hazards R279). -/
def step (s : State) : Host.Outcome State Fault Refusal :=
  if s.busy then .next s.completeBlock
  else
    match s.accept with
    | some (w, s') => exec (decode w) s'
    | none => .next s

/-- `s` with the instruction whose bits are `w` (those from `nbits` on zero) offered as the next command word: the
engine fetches no program, so this stands for the host offering it (log entries 5 and 16). -/
def State.withFetchWord (s : State) (nbits w : Nat) : State := s.offerNext (w % 2 ^ nbits)

end Sys2Proof.Machine
end

