-- ==== Sys2Proof/Machine/Port.lean ====
section
/-! DEFINITION. The command port seen from outside (30_encoding R101, R107): response words, output signals, and the
host's moves, which are not steps of the engine: offering a command word, taking a response, asserting reset. -/

namespace Sys2Proof.Machine

/-- The `err` code of a response (60_exceptions R243). -/
def Response.errCode : Response → BitVec 2
  | .ok _ => 0#2
  | .eNokey => 1#2
  | .eIllop => 2#2

/-- The `data` field of a response: all zero for every error (30_encoding R101). -/
def Response.data : Response → BitVec 64
  | .ok v => v
  | .eNokey => 0#64
  | .eIllop => 0#64

/-- The response word `err ‖ data` (30_encoding R101). -/
def Response.encode (r : Response) : RspWord := r.errCode ++ r.data

/-- The `err` field, `RW[65:64]` (30_encoding R101). -/
def rspWordErr (w : RspWord) : BitVec 2 := w.extractLsb' 64 2

/-- The `data` field, `RW[63:0]` (30_encoding R101). -/
def rspWordData (w : RspWord) : BitVec 64 := w.extractLsb' 0 64

/-- The response a word stands for: `err` = 3, and an error with data, are never produced (30_encoding R101,
60_exceptions R243). -/
def decodeResponse (w : RspWord) : Option Response :=
  if rspWordErr w = 0#2 then some (.ok (rspWordData w))
  else if rspWordData w = 0#64 then
    if rspWordErr w = 1#2 then some .eNokey
    else if rspWordErr w = 2#2 then some .eIllop
    else none
  else none

/-- `cmd_valid`: the host offers a command word (30_encoding R107). -/
def State.cmdValid (s : State) : Bool := !s.cmds.isEmpty

/-- `cmd_op` ‖ `cmd_data` while `cmd_valid` = 1 (30_encoding R107). -/
def State.cmdWord (s : State) : Option CmdWord := s.cmds.head?

/-- `rsp_valid`: the engine offers a response word (30_encoding R107). -/
def State.rspValid (s : State) : Bool := !s.rsps.isEmpty

/-- `rsp_err` ‖ `rsp_data` while `rsp_valid` = 1: the oldest response (30_encoding R107, 20_memory R80). -/
def State.rspWord (s : State) : Option RspWord := s.rsps.head?.map Response.encode

/-- `key_valid`, the `STATUS.KEYV` view (30_encoding R107, 10_state R28). -/
def State.keyValid (s : State) : BitVec 1 := s.status

/-- The host offers a further command word; until it is accepted it has no effect (30_encoding R107). -/
def State.offer (w : CmdWord) (s : State) : State := { s with cmds := s.cmds ++ [w] }

/-- The host takes the oldest response, where there is one (30_encoding R107). -/
def State.takeResponse (s : State) : Option (Response × State) :=
  match s.rsps with
  | [] => none
  | r :: rest => some (r, { s with rsps := rest })

/-- The host asserts `rst` (70_reset_and_hazards R270, R271): `KEYV` becomes 0, `KEY` holds no value, the sequencer is
idle; the command in flight, the offered commands and the untaken responses are dropped (93 U15; log entry 11). The
transient registers are unspecified afterwards (10_state R31), so free values. What the model recorded of the run
stays (60_exceptions R252; log entry 8). -/
def State.assertReset (s : State) : State :=
  { s.clearKeyv with
    key := none
    work := Work.undefined s.free
    busy := false
    cmds := []
    rsps := []
    free := s.free + 1 }

end Sys2Proof.Machine
end

