-- ==== Sys2Proof/Machine/Asm.lean ====
section
/-! DEFINITION. Command streams as text (30_encoding R109) and the pseudo-instructions (R110). -/

namespace Sys2Proof.Machine

/-- A line of a command stream, the source's names and the pseudo-instructions among them (30_encoding R109, R110). -/
inductive AsmLine where
  | enc (b : Block)
  | dec (b : Block)
  | ldkey (k : Key)
  | word (w : CmdWord)
  | reset
  | encryptBlock (b : Block)
  | decryptBlock (b : Block)
  | rekey (k : Key)
  | enck (k : Key) (b : Block)
  | deck (k : Key) (b : Block)
  deriving DecidableEq, Repr

/-- What the host does for a line: it offers a command word, or asserts reset (30_encoding R109). -/
inductive HostEvent where
  | command (w : CmdWord)
  | reset
  deriving DecidableEq, Repr

/-- What a line means (30_encoding R109, R110). -/
def AsmLine.events : AsmLine → List HostEvent
  | .enc b => [.command (encode (.enc b))]
  | .dec b => [.command (encode (.dec b))]
  | .ldkey k => [.command (encode (.ldkey k))]
  | .word w => [.command w]
  | .reset => [.reset]
  | .encryptBlock b => [.command (encode (.enc b))]
  | .decryptBlock b => [.command (encode (.dec b))]
  | .rekey k => [.command (encode (.ldkey k))]
  | .enck k b => [.command (encode (.ldkey k)), .command (encode (.enc b))]
  | .deck k b => [.command (encode (.ldkey k)), .command (encode (.dec b))]

/-- One event of a stream played on the engine, with the responses the host then takes: the word is offered and one
step is run, or reset is asserted, which answers nothing (30_encoding R109). `none` would be a step that stops. -/
def playEvent (e : HostEvent) (s : State) : Option (List Response × State) :=
  match e with
  | .command w =>
    match step (s.offer w) with
    | .next s' => some (s'.rsps, { s' with rsps := [] })
    | .fault _ => none
    | .refused _ => none
  | .reset => some ([], s.assertReset)

/-- A stream of events played in order, with all the responses, in order. -/
def playEvents : List HostEvent → State → Option (List Response × State)
  | [], s => some ([], s)
  | e :: rest, s =>
    match playEvent e s with
    | some (rs, s') =>
      match playEvents rest s' with
      | some (more, s'') => some (rs ++ more, s'')
      | none => none
    | none => none

/-- The value of a hexadecimal digit, either case (log entry 17). -/
def hexDigit (c : Char) : Option Nat :=
  if '0'.toNat ≤ c.toNat ∧ c.toNat ≤ '9'.toNat then some (c.toNat - '0'.toNat)
  else if 'A'.toNat ≤ c.toNat ∧ c.toNat ≤ 'F'.toNat then some (c.toNat - 'A'.toNat + 10)
  else if 'a'.toNat ≤ c.toNat ∧ c.toNat ≤ 'f'.toNat then some (c.toNat - 'a'.toNat + 10)
  else none

/-- The value of hexadecimal digits, most significant first (00_scope R10). -/
def hexDigits : List Char → Nat → Option Nat
  | [], acc => some acc
  | c :: cs, acc =>
    match hexDigit c with
    | some v => hexDigits cs (16 * acc + v)
    | none => none

/-- A literal `0x` followed by exactly `n` hexadecimal digits (00_scope R10, 30_encoding R109). -/
def hexLiteral (n : Nat) (cs : List Char) : Option Nat :=
  match cs with
  | '0' :: 'x' :: digits => if digits.length = n then hexDigits digits 0 else none
  | _ => none

/-- A 64-bit operand: sixteen digits (30_encoding R109). -/
def operandLiteral (cs : List Char) : Option (BitVec 64) := (hexLiteral 16 cs).map (BitVec.ofNat 64)

/-- A raw command word: seventeen digits, below 2^66 (30_encoding R109). -/
def wordLiteral (cs : List Char) : Option CmdWord :=
  match hexLiteral 17 cs with
  | some v => if v < 2 ^ 66 then some (BitVec.ofNat 66 v) else none
  | none => none

/-- The words of a line: a semicolon starts a comment; blanks and commas separate (30_encoding R109, R110; log entry
17). -/
def asmTokens (cs : List Char) : List (List Char) :=
  ((cs.takeWhile (· ≠ ';')).splitOnP fun c => c == ' ' || c == ',').filter (fun t => !t.isEmpty)

/-- A line of text as a line of the stream, where it is one (30_encoding R109, R110). -/
def parseLine (cs : List Char) : Option AsmLine :=
  match asmTokens cs with
  | [m] => if m = ['R', 'E', 'S', 'E', 'T'] then some .reset else none
  | [m, a] =>
    if m = ['E', 'N', 'C'] then (operandLiteral a).map .enc
    else if m = ['D', 'E', 'C'] then (operandLiteral a).map .dec
    else if m = ['L', 'D', 'K', 'E', 'Y'] then (operandLiteral a).map .ldkey
    else if m = ['.', 'w', 'o', 'r', 'd'] then (wordLiteral a).map .word
    else if m = ['R', 'E', 'K', 'E', 'Y'] then (operandLiteral a).map .rekey
    else if m = ['e', 'n', 'c', 'r', 'y', 'p', 't', '_', 'b', 'l', 'o', 'c', 'k'] then
      (operandLiteral a).map .encryptBlock
    else if m = ['d', 'e', 'c', 'r', 'y', 'p', 't', '_', 'b', 'l', 'o', 'c', 'k'] then
      (operandLiteral a).map .decryptBlock
    else none
  | [m, a, b] =>
    match operandLiteral a, operandLiteral b with
    | some k, some x =>
      if m = ['E', 'N', 'C', 'K'] then some (.enck k x)
      else if m = ['D', 'E', 'C', 'K'] then some (.deck k x)
      else none
    | _, _ => none
  | _ => none

/-- A hexadecimal digit in upper case. -/
def hexChar (v : BitVec 4) : Char :=
  if v.toNat < 10 then Char.ofNat ('0'.toNat + v.toNat) else Char.ofNat ('A'.toNat + v.toNat - 10)

/-- The sixteen digits of a 64-bit value, most significant first (00_scope R10). -/
def hexText (x : BitVec 64) : List Char :=
  (List.range 16).map fun i => hexChar (x.extractLsb' (60 - 4 * i) 4)

/-- A response as the spec writes it (30_encoding R109). -/
def Response.text : Response → List Char
  | .ok v => ['-', '>', ' ', 'O', 'K', ' ', '0', 'x'] ++ hexText v
  | .eNokey => ['-', '>', ' ', 'E', 'R', 'R', ' ', 'E', '_', 'N', 'O', 'K', 'E', 'Y']
  | .eIllop => ['-', '>', ' ', 'E', 'R', 'R', ' ', 'E', '_', 'I', 'L', 'L', 'O', 'P']

end Sys2Proof.Machine
end

