-- ==== Sys2Proof/Machine/Cached.lean ====
section
/-! DEFINITION. The engine that stores the RoundKeySet (10_state R25, `RKS_CACHED` = true; 20_memory R86). The machine
of Step.lean recomputes it (`RKS_CACHED` = false); no command can tell the two apart (00_scope R9, 92 D10). -/

namespace Sys2Proof.Machine

/-- The engine with a register file of 16 × 48 bits beside its architectural state (10_state R25). -/
structure Cached where
  core : State
  /-- The stored subkeys; no value until the first `LDKEY` (10_state R31). -/
  store : Option RoundKeySet
  deriving DecidableEq, Repr

/-- The stored subkeys as a block command reads them; only a state no run reaches reads a store that holds no value
while `KEYV` = 1 (log entry 9). -/
def Cached.roundKeys (c : Cached) : RoundKeySet := c.store.getD (Config.freeRoundKeys c.core.free)

/-- A block command over the stored subkeys (43_cipher R207, R208), `ks` being their order of use. -/
def Cached.blockCommand (b : Block) (ks : RoundKeySet) (c : Cached) : Cached :=
  { c with core :=
      if c.core.keyv then c.core.respond (.ok (crypt b ks)) else c.core.respondError .eNokey }

/-- A command on the engine that stores the subkeys: `LDKEY` refills the store in the same transition
(41_key_schedule R166, R167). -/
def Cached.exec (i : Instr) (c : Cached) : Cached :=
  match i with
  | .enc b => c.blockCommand b c.roundKeys
  | .dec b => c.blockCommand b c.roundKeys.reverse
  | .ldkey k => { core := c.core.loadKey k, store := some (schedule k) }
  | .reserved3 _ => { c with core := c.core.respondError .eIllop }

/-- Reset on the engine that stores the subkeys: the store holds no value afterwards (70_reset_and_hazards R270). -/
def Cached.assertReset (c : Cached) : Cached := { core := c.core.assertReset, store := none }

/-- The engine that stores the subkeys, right after reset (10_state R31). -/
def Cached.reset : Cached := { core := State.reset, store := none }

/-- The invariant of the stored copy: at every command boundary at which `KEYV` = 1 it equals `schedule(KEY)`
(10_state R25). -/
def Cached.Coherent (c : Cached) : Prop :=
  c.core.keyv = true → c.store = some c.core.roundKeySet

end Sys2Proof.Machine
end

