-- ==== Sys2Proof/Machine/Pipelined.lean ====
section
/-! DEFINITION. An overlapped engine (43_cipher R213): up to `PIPE_DEPTH` commands in flight (00_scope R9), each block
with its own `L`, `R`, `RC`, `DIR`, and the responses in command order. Its moves are chosen from outside, so every
interleaving is covered; the claim about it is that it answers as the serial engine does (20_memory R80, R82). -/

namespace Sys2Proof.Machine

/-- A command in flight: a block with its own transient registers, or a command whose response is known. -/
inductive Slot where
  | block (w : Work)
  | answered (r : Response)
  deriving DecidableEq, Repr

/-- The overlapped engine: the architectural state (10_state R20), the commands in flight, oldest first, and the
responses delivered. -/
structure Pipe where
  key : Option Key
  keyv : Bool
  slots : List Slot
  rsps : List Response
  deriving DecidableEq, Repr

/-- The key as a block command reads it when it is accepted (43_cipher R213). -/
def Pipe.keyBits (p : Pipe) : Key := p.key.getD (Config.freeKey 0)

/-- The slot a block command takes when it is accepted (43_cipher R207, R208, R212). -/
def Pipe.blockSlot (dir : BitVec 1) (b : Block) (p : Pipe) : Slot :=
  if p.keyv then .block (Work.start dir b p.keyBits) else .answered .eNokey

/-- Acceptance of a command, where the engine is not full. `PIPE_DEPTH` counts `ENC` and `DEC` commands in flight
(00_scope R9, 92 D11), and the spec does not say whether another command takes one of these places: that every command
not yet answered takes one, an `LDKEY`, a reserved command and one that will answer `E_NOKEY` among them, and that any
command waits while none is free, is the model's choice (DESIGN CHOICE, log entry 24). An `LDKEY` waits until every earlier command has finished
under the old key (20_memory R82, 43_cipher R213). -/
def Pipe.accept (depth : Nat) (i : Instr) (p : Pipe) : Option Pipe :=
  if p.slots.length < depth then
    match i with
    | .enc b => some { p with slots := p.slots ++ [p.blockSlot 0#1 b] }
    | .dec b => some { p with slots := p.slots ++ [p.blockSlot 1#1 b] }
    | .ldkey k =>
      if p.slots.isEmpty then
        some { p with key := some k, keyv := true, slots := [.answered (.ok 0#64)] }
      else none
    | .reserved3 _ => some { p with slots := p.slots ++ [.answered .eIllop] }
  else none

/-- One round of a command in flight, while its `RC` < 16 (43_cipher R212). -/
def Slot.advance : Slot → Slot
  | .block w => if w.rc.toNat < 16 then .block w.round else .block w
  | .answered r => .answered r

/-- The oldest command leaves with its response, once its sixteen rounds are done (43_cipher R212, 20_memory R80). -/
def Pipe.retire (p : Pipe) : Option Pipe :=
  match p.slots with
  | [] => none
  | .answered r :: rest => some { p with slots := rest, rsps := p.rsps ++ [r] }
  | .block w :: rest =>
    if w.rc.toNat = 16 then some { p with slots := rest, rsps := p.rsps ++ [.ok w.result] } else none

/-- A move of the overlapped engine. -/
inductive PipeMove where
  | accept (i : Instr)
  | advance (j : Nat)
  | retire
  deriving DecidableEq, Repr

/-- A move, where it is enabled; `depth` is `PIPE_DEPTH`. -/
def Pipe.move (depth : Nat) (m : PipeMove) (p : Pipe) : Option Pipe :=
  match m with
  | .accept i => p.accept depth i
  | .advance j => some { p with slots := p.slots.modify j Slot.advance }
  | .retire => p.retire

/-- The response a command in flight will give. -/
def Slot.response : Slot → Response
  | .block w => .ok w.complete.result
  | .answered r => r

/-- The serial engine `s` has run exactly the commands the overlapped engine `p` has accepted: same key, and its
responses are those delivered followed by those in flight (20_memory R80). -/
def Pipe.Matches (p : Pipe) (s : State) : Prop :=
  s.key = p.key ∧ s.keyv = p.keyv ∧ s.rsps = p.rsps ++ p.slots.map Slot.response

end Sys2Proof.Machine
end

