-- ==== Sys2Proof/Safety.lean ====
section
/-! DEFINITION. What a safe run is, and the invariants of the engine, in the terms claims use. -/

namespace Sys2Proof.Machine

/-- No error response has been given in the run (60_exceptions R252: claims are stated under this premise where they
speak of a host that ran into none). -/
abbrev State.NoFault (s : State) : Prop := s.recorded = none

/-- `KEYV` says whether `KEY` holds a value (10_state R22). -/
abbrev State.KeyHeld (s : State) : Prop := s.keyv = s.key.isSome

/-- A block is in flight only with a key loaded, and its `RC` is 0 to 16 (10_state R26, 60_exceptions R244). -/
abbrev State.InFlightInRange (s : State) : Prop :=
  s.busy = true → s.keyv = true ∧ s.work.rc.toNat ≤ 16

/-- Every untaken error response is recorded as a fault of the run (60_exceptions R252). -/
abbrev State.ErrorsRecorded (s : State) : Prop :=
  ∀ r ∈ s.rsps, r.fault?.isSome = true → s.recorded.isSome = true

/-- The invariant every step, every micro-step and every move of the host keeps. -/
abbrev State.Inv (s : State) : Prop := s.KeyHeld ∧ s.InFlightInRange ∧ s.ErrorsRecorded

/-- The iterations of the key schedule behind the halves `C`, `D` of a block in flight: `RC` of them for `ENC`, and
the `16 - RC` not yet undone for `DEC` (41_key_schedule R157, R161). -/
def Work.iterations (w : Work) : Nat := if w.dir = 0#1 then w.rc.toNat else 16 - w.rc.toNat

/-- The halves `C`, `D` of a block in flight are those of the loaded key after the iterations behind them (10_state
R27, 41_key_schedule R160). -/
def State.KeyHalvesTrack (s : State) : Prop :=
  s.busy = true →
    s.work.c = rotl28 (keyC0 s.keyBits) (cumulativeShift s.work.iterations) ∧
      s.work.d = rotl28 (keyD0 s.keyBits) (cumulativeShift s.work.iterations)

/-- Two states differ at most in what `KEY` holds, and there only in parity bits (10_state R21, 41_key_schedule
R163). -/
abbrev State.SameUpToParity (s t : State) : Prop :=
  s.key.map clearParity = t.key.map clearParity ∧ { s with key := none } = { t with key := none }

/-- The architectural state of the engine, the pair (`KEY`, `KEYV`) (10_state R20). -/
abbrev State.arch (s : State) : Option Key × Bool := (s.key, s.keyv)

/-- The response the spec gives a command of an engine whose key register holds `key`, or no value: the reference
that whole streams of commands are compared with (43_cipher R207, R208, 41_key_schedule R166, 60_exceptions R244,
R245). -/
def answer (key : Option Key) (i : Instr) : Response :=
  match i, key with
  | .enc b, some k => .ok (encrypt b k)
  | .enc _, none => .eNokey
  | .dec b, some k => .ok (decrypt b k)
  | .dec _, none => .eNokey
  | .ldkey _, _ => .ok 0#64
  | .reserved3 _, _ => .eIllop

/-- What `KEY` holds after an event of a stream: the operand of an `LDKEY`, no value after reset, and what it held
before otherwise (10_state R21, R22). -/
def keyAfter (key : Option Key) (e : HostEvent) : Option Key :=
  match e with
  | .reset => none
  | .command w =>
    match decode w with
    | .enc _ => key
    | .dec _ => key
    | .ldkey k => some k
    | .reserved3 _ => key

/-- The responses to a stream of events, one for each command, in order (20_memory R80). -/
def streamAnswers : Option Key → List HostEvent → List Response
  | _, [] => []
  | key, .command w :: rest => answer key (decode w) :: streamAnswers (keyAfter key (.command w)) rest
  | _, .reset :: rest => streamAnswers none rest

/-- The stream that offers the words of commands, in order. -/
def commandStream (is : List Instr) : List HostEvent := is.map fun i => .command (encode i)

/-- A command engine at rest: no block in flight, nothing offered, no response untaken. -/
abbrev State.AtRest (s : State) : Prop := s.busy = false ∧ s.cmds = [] ∧ s.rsps = []

end Sys2Proof.Machine
end

