-- ==== Sys2Proof/Certificates/Slice0/Obligations.lean ====
section
/-! DEFINITION. The statements made of the engine, from the numbered rules of spec/. -/

open Sys2Proof Sys2Proof.Machine

/-! ## Encoding -/

/-- Decoding the word of a command gives the command back, its operand at every value (30_encoding R100, R102,
R103). -/
def Obligations.DecodeOfEncodeIsTheCommand : Prop :=
  ∀ i : Instr, i.wellFormed = true → decode (encode i) = i

/-- Every one of the 2^66 words is the word of exactly one command, the illegal one included: encoding what a word
decodes to gives the word, and no other command has that word (30_encoding R105). -/
def Obligations.EveryWordIsTheWordOfItsCommand : Prop :=
  ∀ w : CmdWord, encode (decode w) = w ∧ ∀ i : Instr, encode i = w → i = decode w

/-- A word `w` selects the row with `(w and mask) = match`, the rows being the four of the map (`ENC`, `DEC`, `LDKEY`,
reserved), and carries its operand in `CW[63:0]`: exactly one row for every word (30_encoding R102). `op[0]` is the
direction bit of the two block commands and `op[1]` says "key". -/
def Obligations.OpcodeMapSelectsTheCommand : Prop :=
  (∀ w : CmdWord, ∀ i : Instr, decode w = i ↔ (w &&& opcodeMask = i.opcodeMatch ∧ cmdWordData w = i.data)) ∧
  (∀ w : CmdWord, ∃ d,
    (w &&& 0x30000000000000000#66 = 0x00000000000000000#66 ∧ decode w = .enc d) ∨
    (w &&& 0x30000000000000000#66 = 0x10000000000000000#66 ∧ decode w = .dec d) ∨
    (w &&& 0x30000000000000000#66 = 0x20000000000000000#66 ∧ decode w = .ldkey d) ∨
    (w &&& 0x30000000000000000#66 = 0x30000000000000000#66 ∧ decode w = .reserved3 d)) ∧
  (∀ w : CmdWord, cmdWordOp w = w.extractLsb' 64 2 ∧
    (cmdWordOp w = 0b00#2 ↔ ∃ b, decode w = .enc b) ∧ (cmdWordOp w = 0b01#2 ↔ ∃ b, decode w = .dec b) ∧
    (cmdWordOp w = 0b10#2 ↔ ∃ k, decode w = .ldkey k) ∧ (cmdWordOp w = 0b11#2 ↔ ∃ d, decode w = .reserved3 d)) ∧
  (∀ w : CmdWord, cmdWordIsKey w = false →
    ∃ b, decode w = if cmdWordDir w = 0#1 then .enc b else .dec b)

/-- The command words printed in 95_test_vectors V-E, all eight of them, decode as printed. -/
def Obligations.PrintedCommandWordsDecode : Prop :=
  decode 0x2133457799BBCDFF1#66 = .ldkey 0x133457799BBCDFF1#64 ∧
  decode 0x00123456789ABCDEF#66 = .enc 0x0123456789ABCDEF#64 ∧
  decode 0x185E813540F0AB405#66 = .dec 0x85E813540F0AB405#64 ∧
  decode 0x3133457799BBCDFF1#66 = .reserved3 0x133457799BBCDFF1#64 ∧
  decode 0x30000000000000000#66 = .reserved3 0x0000000000000000#64 ∧
  decode 0x10000000000000000#66 = .dec 0x0000000000000000#64 ∧
  decode 0x00000000000000000#66 = .enc 0x0000000000000000#64 ∧
  decode 0x20000000000000000#66 = .ldkey 0x0000000000000000#64

/-- The response word carries `err` in bits 65:64 and `data` in bits 63:0, `data` zero for every error; reading it
back gives the response, `err` = 3 stands for none, and a word that stands for a response is that response's word
(30_encoding R101, 60_exceptions R243). -/
def Obligations.ResponseWordsRoundTrip : Prop :=
  (∀ r : Response, decodeResponse r.encode = some r ∧ rspWordErr r.encode ≠ 3#2) ∧
  (∀ w : RspWord, ∀ r : Response, decodeResponse w = some r → r.encode = w) ∧
  (∀ v : BitVec 64, rspWordErr (Response.ok v).encode = 0#2 ∧ rspWordData (Response.ok v).encode = v) ∧
  (rspWordErr Response.eNokey.encode = 1#2 ∧ rspWordData Response.eNokey.encode = 0#64) ∧
  (rspWordErr Response.eIllop.encode = 2#2 ∧ rspWordData Response.eIllop.encode = 0#64)

/-- A host that packs eight bytes finds byte 0 in `data[63:56]` and byte 7 in `data[7:0]`, and packing the bytes of a
word gives the word; byte k holds FIPS bits 8k+1 to 8k+8 (20_memory R73; the order is a decision of the spec, 92
D8). -/
def Obligations.PackedBytesAreBigEndian : Prop :=
  (∀ (b : Vector (BitVec 8) 8) (i : Fin 8), byteOfWord (packBytes b) i = b[i]) ∧
  (∀ x : BitVec 64, packBytes (Vector.ofFn (byteOfWord x)) = x) ∧
  (∀ (x : BitVec 64) (k : Fin 8) (m : Nat), m < 8 →
    fipsBit x (8 * k + 1 + m) = (byteOfWord x k).getLsbD (7 - m))

/-- The pseudo-instructions are the commands they stand for; `ENCK k, b` and `DECK k, b`, played on an idle engine
with nothing offered or untaken, give two responses, the second the result, and leave `KEY` = k (30_encoding R110). -/
def Obligations.PseudoInstructionsExpand : Prop :=
  (∀ b, (AsmLine.encryptBlock b).events = (AsmLine.enc b).events ∧
    (AsmLine.decryptBlock b).events = (AsmLine.dec b).events) ∧
  (∀ k, (AsmLine.rekey k).events = (AsmLine.ldkey k).events) ∧
  ∀ (s : State) (k : Key) (b : Block), s.busy = false → s.cmds = [] → s.rsps = [] →
    (∃ t, playEvents (AsmLine.enck k b).events s = some ([.ok 0#64, .ok (encrypt b k)], t) ∧ t.key = some k) ∧
    (∃ t, playEvents (AsmLine.deck k b).events s = some ([.ok 0#64, .ok (decrypt b k)], t) ∧ t.key = some k)

/-- A 64-bit operand written as `0x` and sixteen digits, most significant first, reads back as itself (30_encoding
section 7, 00_scope section 5). -/
def Obligations.PrintedOperandsReadBack : Prop :=
  ∀ x : BitVec 64, operandLiteral (['0', 'x'] ++ hexText x) = some x

/-! ## The table ROM -/

/-- The ROM map: every table has the size and base printed, its id names it and no other, its entry `i` stands at
address base + i, and nothing stands at id 7, at an id above 15 or at an address from 840 on (20_memory R69). -/
def Obligations.RomMapPlacesEveryTable : Prop :=
  (∀ T : Table, T.contents.length = T.size ∧ Table.ofTsel T.tsel = some T) ∧
  (∀ (T : Table) (i : Nat), i < T.size → romLinear (T.base + i) = rom T i ∧ (rom T i).isSome = true) ∧
  (∀ a : Nat, (romLinear a).isSome = true ↔ a < 840) ∧
  Table.ofTsel 7 = none ∧ (∀ id : Nat, 16 ≤ id → Table.ofTsel id = none)

/-- Every table is well formed as 20_memory R67 defines it, `FP` is the inverse table of `IP` (R53), and the rotation
amounts sum to 28 (R58). -/
def Obligations.TablesAreWellFormed : Prop :=
  (permTableWF 64 64 ipTable.entries = true ∧ permTableWF 64 64 fpTable.entries = true ∧
    permTableWF 32 48 eTable.entries = true ∧ permTableWF 32 32 pTable.entries = true ∧
    permTableWF 64 56 pc1Table.entries = true ∧ permTableWF 56 48 pc2Table.entries = true ∧
    shiftsWF shiftTable.amounts = true ∧ ∀ j : Fin 8, sboxWF (sboxOf j).rows = true) ∧
  (∀ i : Fin 64, fpTable.entries.getD (ipTable.entries.getD i 0 - 1) 0 = i + 1 ∧
    ipTable.entries.getD (fpTable.entries.getD i 0 - 1) 0 = i + 1) ∧
  shiftTable.amounts.sum = 28

/-! ## The bit-permutation unit -/

/-- For an N-bit input and M-entry table, output bit `M-1-i` is input bit `N - T[i]`, for every `i` in `0..M-1`, with
the worked example (40_permute R130). -/
def Obligations.PermuteCopiesTheNamedBits : Prop :=
  (∀ (N M : Nat) (T : PermTable N M) (x : BitVec N) (i : Nat), i < M →
    (permute T x).getLsbD (M - 1 - i) = x.getLsbD (N - T.entries.getD i 0)) ∧
  permute ipTable 0x0123456789ABCDEF#64 = 0xCC00CCFFF0AAF0AA#64

/-- The laws the spec derives for any well-formed table: zero, all ones, XOR and complement pass through, and a single
set input bit k is copied exactly to the output positions p with `T[p-1] = k` (40_permute section 1, the derived laws
(1) to (5)). -/
def Obligations.PermuteLaws : Prop :=
  ∀ (N M : Nat) (T : PermTable N M),
    permute T 0#N = 0#M ∧ permute T (BitVec.allOnes N) = BitVec.allOnes M ∧
    (∀ a b : BitVec N, permute T (a ^^^ b) = permute T a ^^^ permute T b) ∧
    (∀ a : BitVec N, permute T (~~~a) = ~~~(permute T a)) ∧
    (∀ k p : Nat, 1 ≤ k → k ≤ N → 1 ≤ p → p ≤ M →
      fipsBit (permute T (BitVec.twoPow N (N - k))) p = decide (T.entries.getD (p - 1) 0 = k))

/-- `FP64(IP64(x)) = x` for every 64-bit x, the source's bijectivity law, and `IP64(FP64(x)) = x`, which the spec
derives (40_permute section 3). -/
def Obligations.FinalAndInitialPermutationsAreInverse : Prop :=
  ∀ x : BitVec 64, fp64 (ip64 x) = x ∧ ip64 (fp64 x) = x

/-! ## The key schedule -/

/-- `rotl28(v, n)` moves bit i of v to bit (i + n) mod 28, for every amount n, with the corner cases and the worked
examples (41_key_schedule R153). -/
def Obligations.RotationStaysInTwentyEightBits : Prop :=
  (∀ (v : KeyHalf) (n i : Nat), i < 28 → (rotl28 v n).getLsbD ((i + n) % 28) = v.getLsbD i) ∧
  (∀ v : KeyHalf, rotl28 v 0 = v ∧ rotl28 v 28 = v) ∧
  (∀ n : Nat, rotl28 0#28 n = 0#28 ∧ rotl28 0xFFFFFFF#28 n = 0xFFFFFFF#28) ∧
  rotl28 0xF0CCAAF#28 1 = 0xE19955F#28 ∧ rotl28 0x8000000#28 1 = 0x0000001#28 ∧
  rotl28 0x8000001#28 2 = 0x0000006#28

/-- The source's rotation laws, with the two the spec derives from them and the inverse rotation (41_key_schedule
section 2). -/
def Obligations.RotationsCompose : Prop :=
  (∀ (v : KeyHalf) (n : Nat), n ≤ 27 → rotl28 (rotl28 v n) (28 - n) = v) ∧
  (∀ (v : KeyHalf) (a b : Nat), rotl28 (rotl28 v a) b = rotl28 v (a + b)) ∧
  (∀ (v : KeyHalf) (n : Nat), rotr28 (rotl28 v n) n = v ∧ rotl28 (rotr28 v n) n = v)

/-- The schedule runs sixteen iterations: there are halves C₀..C₁₆ and D₀..D₁₆, C₀ ‖ D₀ the compressed key, each pair
the previous one rotated left by `SHIFTS[i]`, and element i of the schedule is `permute(PC2, C_(i+1) ‖ D_(i+1))`; with
the worked example (41_key_schedule R150, R156). -/
def Obligations.ScheduleRunsSixteenIterations : Prop :=
  (∀ key : Key, ∃ C D : Nat → KeyHalf,
    C 0 ++ D 0 = permute pc1Table key ∧
    ∀ i : Fin 16,
      C (i + 1) = rotl28 (C i) ([1, 1, 2, 2, 2, 2, 2, 2, 1, 2, 2, 2, 2, 2, 2, 1].getD i 0) ∧
      D (i + 1) = rotl28 (D i) ([1, 1, 2, 2, 2, 2, 2, 2, 1, 2, 2, 2, 2, 2, 2, 1].getD i 0) ∧
      (schedule key)[i] = permute pc2Table (C (i + 1) ++ D (i + 1))) ∧
  (schedule 0x133457799BBCDFF1#64)[0] = 0x1B02EFFC7072#48 ∧
  (schedule 0x133457799BBCDFF1#64)[1] = 0x79AED9DBC9E5#48 ∧
  (schedule 0x133457799BBCDFF1#64)[15] = 0xCB3D8B0E17F5#48

/-- The closed form the spec derives: `K_n = permute(PC2, rotl28(C₀, s_n) ‖ rotl28(D₀, s_n))`, and after the sixteenth
iteration the halves are back where they started (41_key_schedule section 3). -/
def Obligations.ScheduleClosedForm : Prop :=
  (∀ (key : Key) (i : Fin 16), (schedule key)[i] =
    pc2 (rotl28 (keyC0 key) (cumulativeShift (i + 1)) ++ rotl28 (keyD0 key) (cumulativeShift (i + 1)))) ∧
  (∀ v : KeyHalf, rotl28 v (cumulativeShift 16) = v)

/-- The subkeys made in reverse with right rotations are the schedule's list reversed, as the spec derives
(41_key_schedule section 3). -/
def Obligations.ReverseScheduleIsTheScheduleReversed : Prop :=
  ∀ key : Key, reverseSchedule key = (schedule key).toList.reverse

/-- Two keys that differ only in parity bits have the same schedule (41_key_schedule section 4; that the parity bits
are the least significant of each byte the spec derives from table PC1). -/
def Obligations.ParityBitsDoNotReachTheSchedule : Prop :=
  ∀ k k' : Key, clearParity k = clearParity k' → schedule k = schedule k'

/-- `C₀` is bits 55:28 and `D₀` bits 27:0 of the compressed key, with the source's fixture (41_key_schedule R152). -/
def Obligations.CompressedKeySplits : Prop :=
  (∀ (key : Key) (i : Nat), i < 28 → (keyC0 key).getLsbD i = (permute pc1Table key).getLsbD (28 + i) ∧
    (keyD0 key).getLsbD i = (permute pc1Table key).getLsbD i) ∧
  keyC0 0x133457799BBCDFF1#64 = 0b1111000011001100101010101111#28 ∧
  keyD0 0x133457799BBCDFF1#64 = 0b0101010101100110011110001111#28

/-! ## The round function -/

/-- The row of a chunk is `2·c[5] + c[0]`, its column `c[4:1]`, with the worked example (42_round_function R184). -/
def Obligations.RowAndColumnOfAChunk : Prop :=
  (∀ c : Chunk, (chunkRow c).toNat = 2 * (c.getLsbD 5).toNat + (c.getLsbD 0).toNat) ∧
  (∀ (c : Chunk) (i : Nat), i < 4 → (chunkCol c).getLsbD i = c.getLsbD (i + 1)) ∧
  chunkRow 0b011011#6 = 1#2 ∧ chunkCol 0b011011#6 = 13#4

/-- The output nibble of chunk j is `S(j+1)[row][col]`, read from the ROM at `16·row + col`, with the worked examples
(42_round_function R185, 20_memory R71). -/
def Obligations.NibbleIsTheBoxEntry : Prop :=
  (∀ (x : BitVec 48) (j : Fin 8),
    some (sboxNibble x j).toNat = ((sboxOf j).rows[(chunkRow (chunk x j)).toNat]?).bind
      (fun row => row[(chunkCol (chunk x j)).toNat]?) ∧
    some (sboxNibble x j).toNat =
      rom (.s j) (16 * (chunkRow (chunk x j)).toNat + (chunkCol (chunk x j)).toNat)) ∧
  sboxLookup (sboxOf 0) 0b011011#6 = 5#4 ∧ sboxLookup (sboxOf 0) 0b000000#6 = 14#4 ∧
  sboxLookup (sboxOf 0) 0b111111#6 = 13#4

/-- `chunk_j` is `x[47-6j : 42-6j]` and the nibble of chunk j stands at `s[31-4j : 28-4j]`: bit by bit, and with the
worked examples (42_round_function R183, R186). -/
def Obligations.ChunksAndNibblesKeepTheirOrder : Prop :=
  (∀ (x : BitVec 48) (j : Fin 8) (i : Nat), i < 6 →
    (chunk x j).getLsbD i = x.getLsbD (42 - 6 * j + i)) ∧
  (∀ (x : BitVec 48) (j : Fin 8) (i : Nat), i < 4 →
    (substitute x).getLsbD (28 - 4 * j + i) = (sboxNibble x j).getLsbD i) ∧
  chunk 0x6117BA866527#48 0 = 0b011000#6 ∧ chunk 0x6117BA866527#48 7 = 0b100111#6 ∧
  substitute 0x6117BA866527#48 = 0x5C82B597#32

/-- The six steps together: with x = `permute(E, r) xor k`, nibble j of s is `ROM(S(j+1), 16·row + col)` for the row
`2·c[5] + c[0]` and the column `c[4:1]` of chunk j of x, and `f(r, k) = permute(P, s)`; with the worked example
(42_round_function R188). -/
def Obligations.RoundFunctionIsSixSteps : Prop :=
  (∀ (r : Half) (k : Subkey), ∃ (x : BitVec 48) (s : BitVec 32), x = permute eTable r ^^^ k ∧
    (∀ j : Fin 8, some (s.extractLsb' (28 - 4 * j) 4).toNat =
      rom (.s j) (16 * (2 * (x.getLsbD (47 - 6 * j)).toNat + (x.getLsbD (42 - 6 * j)).toNat) +
        (x.extractLsb' (43 - 6 * j) 4).toNat)) ∧
    roundF r k = permute pTable s) ∧
  roundF 0xF0AAF0AA#32 0x1B02EFFC7072#48 = 0x234AA9BB#32

/-- The round function depends on its arguments only through `permute(E, r) xor k`, and complementing both leaves it,
as the spec derives (42_round_function section 3). -/
def Obligations.RoundFunctionSeesOnlyTheMixedKey : Prop :=
  (∀ (r r' : Half) (k k' : Subkey), e48 r ^^^ k = e48 r' ^^^ k' → roundF r k = roundF r' k') ∧
  (∀ (r : Half) (k : Subkey), roundF (~~~r) (~~~k) = roundF r k)

/-! ## The block function -/

/-- Encryption and decryption are sixteen identical Feistel rounds inside IP and FP: L₀ ‖ R₀ is the permuted block,
`L_n = R_(n-1)` and `R_n = L_(n-1) xor f(R_(n-1), k_n)` with `k_n` = `K_n` to encrypt and `K_(17-n)` to decrypt, and the
result is `permute(FP, R₁₆ ‖ L₁₆)` (43_cipher R200 to R206). Round n + 1 is index n here. -/
def Obligations.BlocksRunSixteenFeistelRounds : Prop :=
  ∀ (b : Block) (key : Key),
    (∃ L R : Nat → Half,
      L 0 ++ R 0 = permute ipTable b ∧
      (∀ n : Fin 16, L (n + 1) = R n ∧ R (n + 1) = L n ^^^ roundF (R n) (schedule key)[n]) ∧
      encrypt b key = permute fpTable (R 16 ++ L 16)) ∧
    (∃ L R : Nat → Half,
      L 0 ++ R 0 = permute ipTable b ∧
      (∀ n : Fin 16, L (n + 1) = R n ∧ R (n + 1) = L n ^^^ roundF (R n) (schedule key)[15 - n.val]) ∧
      decrypt b key = permute fpTable (R 16 ++ L 16))

/-- For all keys and blocks decryption undoes encryption, and, as the spec derives, encryption undoes decryption
(43_cipher section 3). -/
def Obligations.DecryptionAndEncryptionAreInverse : Prop :=
  ∀ (b : Block) (key : Key), decrypt (encrypt b key) key = b ∧ encrypt (decrypt b key) key = b

/-- Complementing the block and the key complements the result, in both directions, as the spec derives (43_cipher
section 5). -/
def Obligations.ComplementationOfCipher : Prop :=
  ∀ (b : Block) (key : Key),
    encrypt (~~~b) (~~~key) = ~~~(encrypt b key) ∧ decrypt (~~~b) (~~~key) = ~~~(decrypt b key)

/-- Where all sixteen subkeys are equal, encryption and decryption are the same function and encrypting twice gives the
block back; the four weak keys the spec names are such keys, in all their parity variants; and the semi-weak pair has
each other's subkeys in reverse, so that encrypting under one is decrypting under the other (43_cipher section 5,
41_key_schedule section 4, derived there). -/
def Obligations.WeakKeysMakeOneFunction : Prop :=
  (∀ (key : Key) (k : Subkey) (b : Block), schedule key = Vector.replicate 16 k →
    encrypt b key = decrypt b key ∧ encrypt (encrypt b key) key = b) ∧
  (∀ key : Key, clearParity key = 0#64 → schedule key = Vector.replicate 16 0x000000000000#48) ∧
  (∀ key : Key, clearParity key = 0xFEFEFEFEFEFEFEFE#64 →
    schedule key = Vector.replicate 16 0xFFFFFFFFFFFF#48) ∧
  (∀ key : Key, clearParity key = clearParity 0x1F1F1F1F0E0E0E0E#64 →
    schedule key = Vector.replicate 16 0x000000FFFFFF#48) ∧
  (∀ key : Key, clearParity key = clearParity 0xE0E0E0E0F1F1F1F1#64 →
    schedule key = Vector.replicate 16 0xFFFFFF000000#48) ∧
  (schedule 0x01FE01FE01FE01FE#64).toList = (schedule 0xFE01FE01FE01FE01#64).toList.reverse ∧
  (∀ b : Block, encrypt b 0x01FE01FE01FE01FE#64 = decrypt b 0xFE01FE01FE01FE01#64 ∧
    encrypt b 0xFE01FE01FE01FE01#64 = decrypt b 0x01FE01FE01FE01FE#64)

/-- The known vector, in both directions (43_cipher R211). -/
def Obligations.KnownVector : Prop :=
  encrypt 0x0123456789ABCDEF#64 0x133457799BBCDFF1#64 = 0x85E813540F0AB405#64 ∧
  decrypt 0x85E813540F0AB405#64 0x133457799BBCDFF1#64 = 0x0123456789ABCDEF#64

/-! ## The commands -/

/-- `ENC b` answers `OK(encrypt(b, KEY))` when `KEYV` = 1 and `ERR(E_NOKEY)` when it is 0, and completes in every
state, writing no architectural state; with the encoding and the worked example (43_cipher R207). `State.respond` adds
the one response, as the frame statement says. That the clause for `KEYV` = 1 also covers states with no key held, which
no run reaches, the key read being a free value there, is the model's choice (DESIGN CHOICE, log entry 2). -/
def Obligations.EncAnswersTheCiphertext : Prop :=
  (∀ (s : State) (b : Block),
    (s.keyv = true → exec (.enc b) s = .next (s.respond (.ok (encrypt b s.keyBits)))) ∧
    (s.keyv = false → exec (.enc b) s = .next (s.respond .eNokey)) ∧
    (∀ k, s.key = some k → s.keyBits = k) ∧
    (∀ r, (s.respond r).arch = s.arch ∧ (s.respond r).rsps = s.rsps ++ [r]) ∧
    cmdWordOp (encode (.enc b)) = 0b00#2) ∧
  (∀ s : State, s.keyv = true → s.key = some 0x133457799BBCDFF1#64 →
    ∃ t, exec (.enc 0x0123456789ABCDEF#64) s = .next t ∧ t.rsps = s.rsps ++ [.ok 0x85E813540F0AB405#64])

/-- `DEC b` answers `OK(decrypt(b, KEY))` when `KEYV` = 1 and `ERR(E_NOKEY)` when it is 0, and completes in every
state, writing no architectural state; with the encoding, the worked example, and that every block is the plaintext of
some block (43_cipher R208). That the clause for `KEYV` = 1 also covers states with no key held, which no run reaches,
the key read being a free value there, is the model's choice (DESIGN CHOICE, log entry 2). -/
def Obligations.DecAnswersThePlaintext : Prop :=
  (∀ (s : State) (b : Block),
    (s.keyv = true → exec (.dec b) s = .next (s.respond (.ok (decrypt b s.keyBits)))) ∧
    (s.keyv = false → exec (.dec b) s = .next (s.respond .eNokey)) ∧
    (∀ k, s.key = some k → s.keyBits = k) ∧
    (∀ r, (s.respond r).arch = s.arch ∧ (s.respond r).rsps = s.rsps ++ [r]) ∧
    cmdWordOp (encode (.dec b)) = 0b01#2) ∧
  (∀ key : Key, Function.Bijective fun b => decrypt b key) ∧
  (∀ s : State, s.keyv = true → s.key = some 0x133457799BBCDFF1#64 →
    ∃ t, exec (.dec 0x85E813540F0AB405#64) s = .next t ∧ t.rsps = s.rsps ++ [.ok 0x0123456789ABCDEF#64])

/-- `LDKEY k` completes from every state: `KEY` holds k, parity bits included, `KEYV` = 1, the response is `OK(0)`, and
the next state depends on no earlier key; the stored subkeys, if any, become `schedule(k)`; loading the loaded key
again changes no architectural state; with the encoding and the worked example (41_key_schedule R166). -/
def Obligations.LdkeyLoadsTheKey : Prop :=
  (∀ (s : State) (k : Key), ∃ t, exec (.ldkey k) s = .next t ∧ t.key = some k ∧ t.keyv = true ∧
    t.rsps = s.rsps ++ [.ok 0x0000000000000000#64] ∧ t.cmds = s.cmds ∧ t.busy = false ∧
    t.recorded = s.recorded ∧ t.roundKeySet = schedule k) ∧
  (∀ (s : State) (k : Key) (key' : Option Key) (v' : Bool),
    exec (.ldkey k) { s with key := key', keyv := v' } = exec (.ldkey k) s) ∧
  (∀ (c : Cached) (k : Key), (c.exec (.ldkey k)).store = some (schedule k) ∧
    exec (.ldkey k) c.core = .next (c.exec (.ldkey k)).core) ∧
  (∀ (s t : State) (k : Key), s.arch = (some k, true) → exec (.ldkey k) s = .next t → t.arch = s.arch) ∧
  (∀ k : Key, cmdWordOp (encode (.ldkey k)) = 0b10#2) ∧
  (∃ t, exec (.ldkey 0x133457799BBCDFF1#64) State.reset = .next t ∧ t.rsps = [.ok 0x0000000000000000#64] ∧
    t.arch = (some 0x133457799BBCDFF1#64, true) ∧ t.roundKeySet[0] = 0x1B02EFFC7072#48)

/-- The reserved opcode answers `ERR(E_ILLOP)` whatever `data` and the state are, ignores `data`, loads no key and
changes neither `KEY` nor `KEYV`, and the next command runs normally: it answers as it would have without the reserved
one (30_encoding R104, 60_exceptions R245). -/
def Obligations.ReservedOpcodeAnswersIllop : Prop :=
  (∀ (s : State) (d d' : BitVec 64), exec (.reserved3 d) s = .next (s.respond .eIllop) ∧
    exec (.reserved3 d) s = exec (.reserved3 d') s) ∧
  (∀ (s t : State) (d : BitVec 64), exec (.reserved3 d) s = .next t →
    t.arch = s.arch ∧ t.cmds = s.cmds ∧ t.busy = false ∧
    (s.KeyHeld → ∀ i : Instr, ∃ u v r, exec i s = .next u ∧ exec i t = .next v ∧ u.arch = v.arch ∧
      u.rsps = s.rsps ++ [r] ∧ v.rsps = t.rsps ++ [r])) ∧
  (∀ (i : Instr) (s t : State), exec i s = .next t →
    (t.rsps = s.rsps ++ [.eIllop] ↔ i.op = 0b11#2)) ∧
  rspWordData Response.eIllop.encode = 0#64 ∧
  decode 0x3133457799BBCDFF1#66 = .reserved3 0x133457799BBCDFF1#64

/-- `E_NOKEY` is answered by `ENC` and `DEC`, only by them, exactly when `KEYV` = 0; the answer is the same whatever
`KEY` and the operand are, writes no architectural state and carries `data` = 0; once a key is loaded no command clears
`KEYV`, so it cannot occur again until reset; `ENC` right after reset meets it (60_exceptions R244). -/
def Obligations.NokeyExactlyWithoutAKey : Prop :=
  (∀ (i : Instr) (s t : State), exec i s = .next t →
    (t.rsps = s.rsps ++ [.eNokey] ↔ s.keyv = false ∧ ∃ b, i = .enc b ∨ i = .dec b)) ∧
  (∀ (i : Instr) (s t : State), exec i s = .next t → t.rsps = s.rsps ++ [.eNokey] → t.arch = s.arch) ∧
  (∀ (s : State) (key' : Option Key) (b b' : Block), s.keyv = false →
    exec (.enc b) s = .next (s.respond .eNokey) ∧ exec (.dec b) s = .next (s.respond .eNokey) ∧
    exec (.enc b') { s with key := key' } = .next { s.respond .eNokey with key := key' } ∧
    exec (.dec b') { s with key := key' } = .next { s.respond .eNokey with key := key' }) ∧
  (∀ (i : Instr) (s t : State), exec i s = .next t → (s.keyv = true ∨ ∃ k, i = .ldkey k) → t.keyv = true) ∧
  rspWordData Response.eNokey.encode = 0#64 ∧
  (∃ t, exec (.enc 0x0123456789ABCDEF#64) State.reset = .next t ∧ t.rsps = [.eNokey])

/-- What `ENC`, `DEC` and the reserved opcode leave: `KEY`, `KEYV`, the offered commands and the earlier responses are
unchanged, one response is added, which depends on `KEY`, `KEYV` and the operand only, and the record of faults changes
only if it was empty and the response is an error (43_cipher R210). The record is the model's own and no part of that
rule (DEDUCED, log entry 8). The transient registers
`RC`, `L`, `R`, `C`, `D`, `DIR` hold no defined value afterwards. -/
def Obligations.BlockAndReservedCommandFrame : Prop :=
  (∀ (i : Instr) (s t : State), (∀ k, i ≠ .ldkey k) → exec i s = .next t →
    t.key = s.key ∧ t.keyv = s.keyv ∧ t.cmds = s.cmds ∧ t.busy = false ∧
    (∃ r, t.rsps = s.rsps ++ [r] ∧ t.recorded = s.recorded.or r.fault?)) ∧
  (∀ (i : Instr) (s t s' t' : State), (∀ k, i ≠ .ldkey k) → s.arch = t.arch → s.KeyHeld →
    exec i s = .next s' → exec i t = .next t' →
    ∃ r, s'.rsps = s.rsps ++ [r] ∧ t'.rsps = t.rsps ++ [r])

/-- Every accepted command produces exactly one response, after the earlier ones (30_encoding R101, 20_memory R80). -/
def Obligations.OneResponsePerCommand : Prop :=
  ∀ (i : Instr) (s : State), ∃ t r, exec i s = .next t ∧ t.rsps = s.rsps ++ [r] ∧ t.cmds = s.cmds

/-- `ENC` and `DEC` commute: between key loads each block command of a stream gets a response that depends on the
command alone, so any reordering gives each command the same response, and the architectural state stays (20_memory
R81). The reserved command may stand among them. -/
def Obligations.BlockCommandsCommute : Prop :=
  ∀ s : State, s.AtRest → s.KeyHeld → ∃ respond : Instr → Response,
    ∀ is : List Instr, (∀ i ∈ is, ∀ k, i ≠ .ldkey k) →
      ∃ t, playEvents (commandStream is) s = some (is.map respond, t) ∧ t.arch = s.arch

/-- Every block command before an `LDKEY` uses the old key whole and every one after it the new key whole, none a
mixture (20_memory R82, 41_key_schedule R167). -/
def Obligations.LdkeyIsOrderedAgainstBlocks : Prop :=
  ∀ (s : State) (old new : Key) (before after : List Instr), s.AtRest → s.arch = (some old, true) →
    (∀ i ∈ before, ∀ k, i ≠ .ldkey k) → (∀ i ∈ after, ∀ k, i ≠ .ldkey k) →
    ∃ t, playEvents (commandStream (before ++ .ldkey new :: after)) s =
        some (before.map (answer (some old)) ++ .ok 0#64 :: after.map (answer (some new)), t) ∧
      t.arch = (some new, true)

/-- A whole stream, resets and raw command words among its events: the engine answers one response for each command,
in order, and each is the response the spec gives that command under the key then held, which is the operand of the
most recent `LDKEY` since reset; `KEYV` says whether there was one (20_memory R80, 10_state R22). -/
def Obligations.StreamIsAnsweredInOrder : Prop :=
  ∀ (s : State) (events : List HostEvent), s.AtRest → s.KeyHeld →
    ∃ t, playEvents events s = some (streamAnswers s.key events, t) ∧
      t.key = events.foldl keyAfter s.key ∧ t.keyv = (events.foldl keyAfter s.key).isSome ∧ t.AtRest

/-- Repeating a command: the same command twice answers the same twice; a block command, or the reserved one, changes no
architectural state either time, and loading the same key twice leaves the architectural state of loading it once
(20_memory section 5, derived there). -/
def Obligations.RepeatedCommandsChangeNothingMore : Prop :=
  ∀ (i : Instr) (s t u : State), s.KeyHeld → exec i s = .next t → exec i t = .next u →
    u.arch = t.arch ∧ ((∀ k, i ≠ .ldkey k) → t.arch = s.arch) ∧
    ∃ r, t.rsps = s.rsps ++ [r] ∧ u.rsps = s.rsps ++ [r, r]

/-- A command for the host: encrypting under a loaded key and decrypting the answer gives the block back, through the
commands (43_cipher R209, R210). -/
def Obligations.DecOfEncIsTheBlock : Prop :=
  ∀ (s t u : State) (b c : Block), s.keyv = true → s.KeyHeld →
    exec (.enc b) s = .next t → t.rsps = s.rsps ++ [.ok c] → exec (.dec c) t = .next u →
    u.rsps = s.rsps ++ [.ok c, .ok b]

/-! ## The machine -/

/-- A step of an idle engine with room for a response runs the decoded oldest command word, the word taken from the
port and nothing else changed (30_encoding R107, 20_memory R80). -/
def Obligations.StepRunsTheDecodedCommand : Prop :=
  ∀ (s : State) (w : CmdWord) (rest : List CmdWord), s.busy = false → s.hasRoom = true → s.cmds = w :: rest →
    step s = exec (decode w) { s with cmds := rest }

/-- While no command is offered, or the engine cannot accept one, an idle engine waits: nothing changes and the
offered words stay (30_encoding R108, 70_reset_and_hazards R279). That an engine with no response untaken has room for
one is the model's choice, since the spec gives no capacity (DESIGN CHOICE, log entry 6). -/
def Obligations.IdleEngineWaits : Prop :=
  (∀ s : State, s.busy = false → (s.cmds = [] ∨ s.hasRoom = false) → step s = .next s) ∧
  (∀ s : State, s.rsps = [] → s.hasRoom = true)

/-- Results need not be collected: a step takes at most the oldest offered command, gives it exactly one response after
the untaken ones, and drops or overwrites neither a command nor a response; an engine whose responses are not taken
stops accepting (70_reset_and_hazards R279). The host is given the responses in the order of their commands: the port
offers the word of the oldest untaken one, exactly while there is one, and taking it leaves the others in order and
changes nothing else (30_encoding R107). The number from which it stops, and that an idle engine with none untaken
accepts, are the model's choice (DESIGN CHOICE, log entry 6). -/
def Obligations.NothingIsDroppedOrOverwritten : Prop :=
  (∀ s t : State, s.busy = false → step s = .next t →
    (t.cmds = s.cmds ∧ t.rsps = s.rsps) ∨ ∃ w r, s.cmds = w :: t.cmds ∧ t.rsps = s.rsps ++ [r]) ∧
  (∀ s t : State, s.busy = true → step s = .next t → t.cmds = s.cmds ∧ ∃ r, t.rsps = s.rsps ++ [r]) ∧
  (∀ (s : State) (r : Response) (rest : List Response), s.rsps = r :: rest →
    s.rspValid = true ∧ s.rspWord = some r.encode ∧ s.takeResponse = some (r, { s with rsps := rest })) ∧
  (∀ s : State, s.rsps = [] → s.rspValid = false ∧ s.rspWord = none ∧ s.takeResponse = none) ∧
  (∃ n : Nat, ∀ s : State, n ≤ s.rsps.length → s.cmdReady = false) ∧
  (∀ s : State, s.busy = false → s.rsps = [] → s.cmdReady = true)

/-- The instruction the host's word names is the one the very next step runs (30_encoding R102, R107; the placement is
the model's, log entry 16). -/
def Obligations.OfferedWordRunsNext : Prop :=
  ∀ (s : State) (nbits w : Nat) (i : Instr), decodeTableWord nbits w = some i →
    step (s.withFetchWord nbits w) =
      exec i { s with busy := false, rsps := if s.hasRoom then s.rsps else [] }

/-- The engine has no runtime failure: every step answers a next state, and leaves the engine idle, no command half
done (60_exceptions R240, 20_memory R76). -/
def Obligations.StepNeverStopsNorStallsHalfway : Prop :=
  ∀ s : State, ∃ t, step s = .next t ∧ t.busy = false

/-- Only a step that accepts an `LDKEY`, on an idle engine with room for its response (what room there is, is log entry
6), changes `KEY` or `KEYV`, and it leaves the operand and 1; the same holds of
every micro-step, and of the host's moves only reset changes them (10_state section 1). -/
def Obligations.OnlyLdkeyAndResetWriteTheKey : Prop :=
  (∀ s t : State, (step s = .next t ∨ microStep s = t) →
    t.arch = s.arch ∨
      ∃ w k, s.busy = false ∧ s.hasRoom = true ∧ s.cmds.head? = some w ∧ decode w = .ldkey k ∧
        t.arch = (some k, true)) ∧
  (∀ s : State, (∀ w, (s.offer w).arch = s.arch) ∧ (∀ r t, s.takeResponse = some (r, t) → t.arch = s.arch) ∧
    s.assertReset.arch = (none, false))

/-- Every step keeps the invariant: `KEYV` says whether `KEY` holds a value, a block in flight has a key and `RC` at
most 16, and every untaken error response is recorded (10_state R22, R26; the record is log entry 8). -/
def Obligations.StepKeepsInv : Prop :=
  ∀ s t : State, s.Inv → step s = .next t → t.Inv

/-- Every micro-step and every move of the host keeps the invariant (10_state R22, R26, 43_cipher R212, 30_encoding
R107, 70_reset_and_hazards R270). Its part `ErrorsRecorded` is about the model's own record (60_exceptions R252 advises
it; DEDUCED, log entry 8). -/
def Obligations.MicroStepsAndHostMovesKeepInv : Prop :=
  ∀ s : State, s.Inv → (microStep s).Inv ∧ (∀ w, (s.offer w).Inv) ∧
    (∀ r t, s.takeResponse = some (r, t) → t.Inv) ∧ s.assertReset.Inv

/-- The state right after reset meets the invariants (10_state R31). The parts `NoFault` and `ErrorsRecorded` are about
the model's own record (60_exceptions R252 advises it; DEDUCED, log entry 8). -/
def Obligations.ResetSatisfiesInv : Prop :=
  State.reset.Inv ∧ State.reset.NoFault ∧ State.reset.KeyHalvesTrack ∧ Cached.reset.Coherent

/-- Reset: `KEYV` becomes 0, `KEY` and any stored RoundKeySet hold no value, the sequencer is idle, the engine is ready
to accept a command; the state right after power-up has these values too (70_reset_and_hazards R270, 10_state R31). -/
def Obligations.ResetClearsTheKey : Prop :=
  (∀ s : State, s.assertReset.keyv = false ∧ s.assertReset.key = none ∧ s.assertReset.busy = false ∧
    s.assertReset.cmdReady = true ∧ s.assertReset.keyValid = 0#1) ∧
  (∀ c : Cached, c.assertReset.store = none) ∧
  (State.reset.keyv = false ∧ State.reset.key = none ∧ State.reset.busy = false ∧
    State.reset.cmdReady = true ∧ State.reset.keyValid = 0#1 ∧ Cached.reset.store = none)

/-- Reset during a command: the command in flight gives no response and has no effect, untaken responses and offered
words are dropped, no key is left, and the state is the same whatever the command, the key and the data were; a command
that reset does not interrupt completes (70_reset_and_hazards R271). The model's: that all offered words are dropped
(DEDUCED from 93 U15, log entry 11), and what the state after reset still depends on, the counter of the free values
(DESIGN CHOICE, log entry 4) and the record of the run's first fault (DEDUCED, log entry 8). -/
def Obligations.ResetDropsTheCommandInFlight : Prop :=
  (∀ s : State, s.assertReset.rsps = [] ∧ s.assertReset.cmds = [] ∧ s.assertReset.busy = false ∧
    s.assertReset.arch = (none, false)) ∧
  (∀ s t : State, s.free = t.free → s.recorded = t.recorded → s.assertReset = t.assertReset) ∧
  (∀ s : State, s.busy = true → ∃ t v, step s = .next t ∧ t.busy = false ∧ t.rsps = s.rsps ++ [.ok v] ∧
    t.arch = s.arch)

/-- The first error response of a run is recorded, and no step, no micro-step and no move of the host (offering a word,
taking a response, reset) clears or changes the record; while none is recorded, a command records one exactly when it
answers an error (60_exceptions R252 advises it; the record is the model's, DEDUCED, log entry 8). -/
def Obligations.FirstFaultIsKept : Prop :=
  (∀ (s t : State) (f : Fault), s.recorded = some f → step s = .next t →
    t.recorded = some f ∧ (microStep s).recorded = some f ∧ s.assertReset.recorded = some f ∧
    (∀ w, (s.offer w).recorded = some f) ∧
    (∀ r u, s.takeResponse = some (r, u) → u.recorded = some f)) ∧
  (∀ (i : Instr) (s t : State), s.NoFault → exec i s = .next t →
    (t.NoFault ↔ ∃ v, t.rsps = s.rsps ++ [.ok v]))

/-- The `STATUS` view is a copy of `KEYV`, one bit, always readable (10_state R28). -/
def Obligations.StatusCopiesKeyv : Prop :=
  ∀ s : State, (s.keyValid = 1#1 ↔ s.keyv = true) ∧ (s.keyValid = 0#1 ↔ s.keyv = false)

/-- Parity bits never show: two states that differ at most in parity bits of `KEY` step to states that differ at most
so; in particular they answer alike (41_key_schedule R163, 10_state R21). -/
def Obligations.ParityBitsNeverShow : Prop :=
  ∀ s t s' t' : State, s.SameUpToParity t → step s = .next s' → step t = .next t' → s'.SameUpToParity t'

/-! ## Micro-steps, the stored subkeys, overlapped commands -/

/-- The reference sequencing: `start`, `round` and `finish` do what the spec's micro-steps do, the round that follows
`RC` = n using `K[n+1]` for `ENC` and `K[17-(n+1)]` for `DEC`; a block command with a key loaded is one start, exactly
sixteen rounds and one finish, after n + 1 micro-steps the block is in flight with `RC` = n, and after eighteen the state
is the one the atomic step gives (43_cipher R212). That with no key loaded, and for the other commands, one micro-step is
the step, and that a step completes a block in flight, is the model's reading (DEDUCED, log entry 7). That the halves
`C`, `D` follow the schedule (`KeyHalvesTrack`) is an invariant of its own. -/
def Obligations.StepIsStartSixteenRoundsFinish : Prop :=
  (∀ (s s' : State) (w : CmdWord), s.busy = false → s.accept = some (w, s') → s'.keyv = true →
    (∃ b, decode w = .enc b ∨ decode w = .dec b) →
    ((microStep s).busy = true ∧ (microStep s).work.dir = cmdWordDir w ∧ (microStep s).work.rc = 0#5 ∧
      (microStep s).work.l ++ (microStep s).work.r = permute ipTable (cmdWordData w)) ∧
    step s = .next (microSteps 18 s) ∧
    ∀ n : Nat, n ≤ 16 → (microSteps (n + 1) s).busy = true ∧ (microSteps (n + 1) s).work.rc.toNat = n) ∧
  (∀ (s : State) (n : Fin 16), s.busy = true → s.KeyHalvesTrack → s.work.rc.toNat = n.val →
    (microStep s).busy = true ∧ (microStep s).work.rc.toNat = n.val + 1 ∧
    (microStep s).work.dir = s.work.dir ∧ (microStep s).work.l = s.work.r ∧
    (microStep s).work.r = s.work.l ^^^ roundF s.work.r
      (if s.work.dir = 0#1 then s.roundKeySet[n] else s.roundKeySet[15 - n.val])) ∧
  (∀ s : State, s.busy = true → s.work.rc = 16#5 →
    microStep s = s.respond (.ok (permute fpTable (s.work.r ++ s.work.l))) ∧ (microStep s).busy = false) ∧
  (∀ (s s' : State) (w : CmdWord), s.busy = false → s.accept = some (w, s') →
    (s'.keyv = false ∨ ∀ b, decode w ≠ .enc b ∧ decode w ≠ .dec b) →
    step s = .next (microStep s)) ∧
  (∀ s : State, s.busy = true → s.work.rc.toNat ≤ 16 →
    step s = .next (microSteps (17 - s.work.rc.toNat) s))

/-- The halves `C` and `D` of a block in flight follow the key schedule: every micro-step keeps them those of the
loaded key after the iterations behind them (10_state R27, 41_key_schedule R157, R164). That those of a `DEC` in flight
run backwards, from `C₀`, `D₀` by right rotations as R161 makes the subkeys, is the model's reading (DEDUCED, log entry
10): 43_cipher R212 names neither `C` nor `D`. -/
def Obligations.MicroStepKeepsKeyHalves : Prop :=
  ∀ s : State, s.Inv → s.KeyHalvesTrack → (microStep s).KeyHalvesTrack

/-- The engine that stores the subkeys and the one that makes them anew cannot be told apart: from a state whose copy
equals `schedule(KEY)` every command leaves the same state and the same response, and the copy equals `schedule(KEY)`
again, after reset too (10_state R25). -/
def Obligations.StoredSubkeysCannotBeObserved : Prop :=
  (∀ (i : Instr) (c : Cached), c.core.KeyHeld → c.Coherent →
    exec i c.core = .next (c.exec i).core ∧ (c.exec i).Coherent) ∧
  (∀ c : Cached, c.assertReset.Coherent)

/-- The overlapped engine answers as the serial one: its moves either accept a command, and then the serial engine runs
that command and they match again, or do not, and then they match as before (20_memory R80, R82, 43_cipher R213). -/
def Obligations.OverlappedEngineAnswersSerially : Prop :=
  ∀ (depth : Nat) (m : PipeMove) (p p' : Pipe) (s : State), p.Matches s → s.KeyHeld →
    p.move depth m = some p' →
    (∀ i, m = .accept i → ∃ t, exec i s = .next t ∧ p'.Matches t) ∧
    ((∀ i, m ≠ .accept i) → p'.Matches s)
end

