-- ==== Sys2Proof/Laws/Perm.lean ====
section
/-! SUPPORT. What the PERM unit's bit list and the cuts of operands read as. -/

namespace Sys2Proof.Machine

theorem bitsToNat_concat (bits : List Bool) (b : Bool) :
    bitsToNat (bits ++ [b]) = 2 * bitsToNat bits + b.toNat := by
  simp [bitsToNat]

/-- Bit `i` of a list of bits read as a number is the entry `i` from its end, and no bit stands above the list. -/
theorem bitsToNat_testBit (bits : List Bool) (i : Nat) :
    (bitsToNat bits).testBit i = bits.reverse.getD i false := by
  induction bits using List.reverseRecOn generalizing i with
  | nil => simp [bitsToNat]
  | append_singleton bits b ih =>
    rw [bitsToNat_concat, List.reverse_append, List.reverse_singleton, List.singleton_append]
    cases i with
    | zero => cases b <;> simp [Nat.testBit_zero]
    | succ i =>
      rw [Nat.testBit_succ, List.getD_cons_succ, ← ih]
      congr 1
      cases b <;> simp only [Bool.toNat_true, Bool.toNat_false] <;> omega

theorem PermTable.length_entries {N M : Nat} (T : PermTable N M) : T.entries.length = M := by
  have h := T.wf
  simp only [permTableWF, Bool.and_eq_true, beq_iff_eq] at h
  exact h.1

theorem PermTable.entry_range {N M : Nat} (T : PermTable N M) {t : Nat} (ht : t ∈ T.entries) :
    1 ≤ t ∧ t ≤ N := by
  have h := T.wf
  simp only [permTableWF, Bool.and_eq_true, List.all_eq_true, decide_eq_true_eq] at h
  exact h.2 t ht

/-- Bit `i` of a permuted value, counted from its least significant end: the input bit that the entry `i` from the end
of the table names. -/
theorem getLsbD_permute {N M : Nat} (T : PermTable N M) (x : BitVec N) {i : Nat} (hi : i < M) :
    (permute T x).getLsbD i = x.getLsbD (N - T.entries.getD (M - 1 - i) 0) := by
  have hl := T.length_entries
  unfold permute
  rw [BitVec.getLsbD_ofNat, bitsToNat_testBit, List.getD_eq_getElem?_getD, List.getD_eq_getElem?_getD,
    List.getElem?_reverse (by rw [List.length_map, hl]; exact hi), List.getElem?_map, List.length_map, hl,
    List.getElem?_eq_getElem (by omega)]
  simp [hi]

theorem PermTable.getD_range {N M : Nat} (T : PermTable N M) {i : Nat} (hi : i < M) :
    1 ≤ T.entries.getD i 0 ∧ T.entries.getD i 0 ≤ N := by
  have hl := T.length_entries
  rw [List.getD_eq_getElem?_getD, List.getElem?_eq_getElem (by omega)]
  exact T.entry_range (List.getElem_mem _)

/-- The two halves of a value, high half first, are the value. -/
theorem extractLsb'_halves {n : Nat} (x : BitVec (n + n)) : x.extractLsb' n n ++ x.extractLsb' 0 n = x := by
  refine BitVec.eq_of_getLsbD_eq fun i hi => ?_
  rw [BitVec.getLsbD_append, BitVec.getLsbD_extractLsb', BitVec.getLsbD_extractLsb']
  split
  · next h => simp [h]
  · next h => rw [show n + (i - n) = i by omega]; simp [show i - n < n by omega]

theorem hi32_append_lo32 (x : BitVec 64) : hi32 x ++ lo32 x = x := extractLsb'_halves (n := 32) x

theorem hi28_append_lo28 (x : CompressedKey) : hi28 x ++ lo28 x = x := extractLsb'_halves (n := 28) x

/-- The bus carries an `n`-bit operand exactly when it is that operand right-aligned, with zeros above. -/
theorem busOperand_eq_some {n : Nat} (h : n ≤ 64) {x : BitVec 64} {v : BitVec n} :
    busOperand n x = some v ↔ x = v.setWidth 64 := by
  have hv : (v.setWidth 64).toNat = v.toNat := by
    rw [BitVec.toNat_setWidth, Nat.mod_eq_of_lt (lt_of_lt_of_le v.isLt (Nat.pow_le_pow_right (by omega) h))]
  rw [← BitVec.toNat_inj, hv, busOperand]
  split
  · next hx => rw [Option.some.injEq, ← BitVec.toNat_inj, BitVec.toNat_setWidth, Nat.mod_eq_of_lt hx]
  · next hx => exact ⟨(nomatch ·), fun e => absurd (e ▸ v.isLt) hx⟩

/-- The rotation of the key halves is the library's rotation of a 28-bit vector. -/
theorem rotl28_eq_rotateLeft (v : KeyHalf) (n : Nat) : rotl28 v n = v.rotateLeft n := by
  have key : ∀ m < 28, BitVec.ofNat 28 (((v.toNat <<< m) ||| (v.toNat >>> (28 - m))) &&& 0xFFFFFFF) =
      v.rotateLeft m := by
    intro m hm
    refine BitVec.eq_of_getLsbD_eq fun i hi => ?_
    rw [BitVec.getLsbD_ofNat, BitVec.getLsbD_rotateLeft, show (0xFFFFFFF : Nat) = 2 ^ 28 - 1 by decide,
      Nat.and_two_pow_sub_one_eq_mod, Nat.mod_eq_of_lt hm]
    simp only [hi, decide_true, Bool.true_and, Nat.testBit_mod_two_pow, Nat.testBit_or, Nat.testBit_shiftLeft,
      Nat.testBit_shiftRight]
    by_cases h : i < m
    · simp only [ge_iff_le, show ¬ m ≤ i by omega, decide_false, Bool.false_and, Bool.false_or, h]
      rfl
    · have hv : v.toNat.testBit (28 - m + i) = false :=
        Nat.testBit_lt_two_pow (lt_of_lt_of_le v.isLt (Nat.pow_le_pow_right (by omega) (by omega)))
      simp [h, show m ≤ i by omega, hv, BitVec.getLsbD]
  exact (key _ (Nat.mod_lt _ (by omega))).trans BitVec.rotateLeft_mod_eq_rotateLeft

@[simp] theorem toList_schedule (key : Key) :
    (schedule key).toList = scheduleFrom shiftTable.amounts (keyC0 key) (keyD0 key) := rfl

end Sys2Proof.Machine
end

