-- ==== Sys2Proof/Laws/State.lean ====
section
/-! SUPPORT. One lemma for each field and each update of State, so that no later proof unfolds a record update. -/

namespace Sys2Proof.Machine

@[simp] theorem State.setKeyv_key (s : State) : (s.setKeyv).key = s.key := rfl
@[simp] theorem State.setKeyv_keyv (s : State) : (s.setKeyv).keyv = true := rfl
@[simp] theorem State.setKeyv_work (s : State) : (s.setKeyv).work = s.work := rfl
@[simp] theorem State.setKeyv_busy (s : State) : (s.setKeyv).busy = s.busy := rfl
@[simp] theorem State.setKeyv_cmds (s : State) : (s.setKeyv).cmds = s.cmds := rfl
@[simp] theorem State.setKeyv_rsps (s : State) : (s.setKeyv).rsps = s.rsps := rfl
@[simp] theorem State.setKeyv_recorded (s : State) : (s.setKeyv).recorded = s.recorded := rfl
@[simp] theorem State.setKeyv_free (s : State) : (s.setKeyv).free = s.free := rfl

@[simp] theorem State.clearKeyv_key (s : State) : (s.clearKeyv).key = s.key := rfl
@[simp] theorem State.clearKeyv_keyv (s : State) : (s.clearKeyv).keyv = false := rfl
@[simp] theorem State.clearKeyv_work (s : State) : (s.clearKeyv).work = s.work := rfl
@[simp] theorem State.clearKeyv_busy (s : State) : (s.clearKeyv).busy = s.busy := rfl
@[simp] theorem State.clearKeyv_cmds (s : State) : (s.clearKeyv).cmds = s.cmds := rfl
@[simp] theorem State.clearKeyv_rsps (s : State) : (s.clearKeyv).rsps = s.rsps := rfl
@[simp] theorem State.clearKeyv_recorded (s : State) : (s.clearKeyv).recorded = s.recorded := rfl
@[simp] theorem State.clearKeyv_free (s : State) : (s.clearKeyv).free = s.free := rfl

@[simp] theorem State.writeKey_key (s : State) (k : Key) : (s.writeKey k).key = some k := rfl
@[simp] theorem State.writeKey_keyv (s : State) (k : Key) : (s.writeKey k).keyv = s.keyv := rfl
@[simp] theorem State.writeKey_work (s : State) (k : Key) : (s.writeKey k).work = s.work := rfl
@[simp] theorem State.writeKey_busy (s : State) (k : Key) : (s.writeKey k).busy = s.busy := rfl
@[simp] theorem State.writeKey_cmds (s : State) (k : Key) : (s.writeKey k).cmds = s.cmds := rfl
@[simp] theorem State.writeKey_rsps (s : State) (k : Key) : (s.writeKey k).rsps = s.rsps := rfl
@[simp] theorem State.writeKey_recorded (s : State) (k : Key) : (s.writeKey k).recorded = s.recorded := rfl
@[simp] theorem State.writeKey_free (s : State) (k : Key) : (s.writeKey k).free = s.free := rfl

@[simp] theorem State.record_key (s : State) (f : Option Fault) : (s.record f).key = s.key := rfl
@[simp] theorem State.record_keyv (s : State) (f : Option Fault) : (s.record f).keyv = s.keyv := rfl
@[simp] theorem State.record_work (s : State) (f : Option Fault) : (s.record f).work = s.work := rfl
@[simp] theorem State.record_busy (s : State) (f : Option Fault) : (s.record f).busy = s.busy := rfl
@[simp] theorem State.record_cmds (s : State) (f : Option Fault) : (s.record f).cmds = s.cmds := rfl
@[simp] theorem State.record_rsps (s : State) (f : Option Fault) : (s.record f).rsps = s.rsps := rfl
@[simp] theorem State.record_recorded (s : State) (f : Option Fault) : (s.record f).recorded = s.recorded.or f := rfl
@[simp] theorem State.record_free (s : State) (f : Option Fault) : (s.record f).free = s.free := rfl

@[simp] theorem State.respond_key (s : State) (r : Response) : (s.respond r).key = s.key := rfl
@[simp] theorem State.respond_keyv (s : State) (r : Response) : (s.respond r).keyv = s.keyv := rfl
@[simp] theorem State.respond_work (s : State) (r : Response) : (s.respond r).work = Work.undefined s.free := rfl
@[simp] theorem State.respond_busy (s : State) (r : Response) : (s.respond r).busy = false := rfl
@[simp] theorem State.respond_cmds (s : State) (r : Response) : (s.respond r).cmds = s.cmds := rfl
@[simp] theorem State.respond_rsps (s : State) (r : Response) : (s.respond r).rsps = s.rsps ++ [r] := rfl
@[simp] theorem State.respond_recorded (s : State) (r : Response) : (s.respond r).recorded = s.recorded.or r.fault? := rfl
@[simp] theorem State.respond_free (s : State) (r : Response) : (s.respond r).free = s.free + 1 := rfl

@[simp] theorem State.startBlock_key (s : State) (dir : BitVec 1) (b : Block) : (s.startBlock dir b).key = s.key := rfl
@[simp] theorem State.startBlock_keyv (s : State) (dir : BitVec 1) (b : Block) : (s.startBlock dir b).keyv = s.keyv := rfl
@[simp] theorem State.startBlock_work (s : State) (dir : BitVec 1) (b : Block) : (s.startBlock dir b).work = Work.start dir b s.keyBits := rfl
@[simp] theorem State.startBlock_busy (s : State) (dir : BitVec 1) (b : Block) : (s.startBlock dir b).busy = true := rfl
@[simp] theorem State.startBlock_cmds (s : State) (dir : BitVec 1) (b : Block) : (s.startBlock dir b).cmds = s.cmds := rfl
@[simp] theorem State.startBlock_rsps (s : State) (dir : BitVec 1) (b : Block) : (s.startBlock dir b).rsps = s.rsps := rfl
@[simp] theorem State.startBlock_recorded (s : State) (dir : BitVec 1) (b : Block) : (s.startBlock dir b).recorded = s.recorded := rfl
@[simp] theorem State.startBlock_free (s : State) (dir : BitVec 1) (b : Block) : (s.startBlock dir b).free = s.free := rfl

@[simp] theorem State.roundBlock_key (s : State) : (s.roundBlock).key = s.key := rfl
@[simp] theorem State.roundBlock_keyv (s : State) : (s.roundBlock).keyv = s.keyv := rfl
@[simp] theorem State.roundBlock_work (s : State) : (s.roundBlock).work = s.work.round := rfl
@[simp] theorem State.roundBlock_busy (s : State) : (s.roundBlock).busy = s.busy := rfl
@[simp] theorem State.roundBlock_cmds (s : State) : (s.roundBlock).cmds = s.cmds := rfl
@[simp] theorem State.roundBlock_rsps (s : State) : (s.roundBlock).rsps = s.rsps := rfl
@[simp] theorem State.roundBlock_recorded (s : State) : (s.roundBlock).recorded = s.recorded := rfl
@[simp] theorem State.roundBlock_free (s : State) : (s.roundBlock).free = s.free := rfl

@[simp] theorem State.finishBlock_key (s : State) : (s.finishBlock).key = s.key := rfl
@[simp] theorem State.finishBlock_keyv (s : State) : (s.finishBlock).keyv = s.keyv := rfl
@[simp] theorem State.finishBlock_work (s : State) : (s.finishBlock).work = Work.undefined s.free := rfl
@[simp] theorem State.finishBlock_busy (s : State) : (s.finishBlock).busy = false := rfl
@[simp] theorem State.finishBlock_cmds (s : State) : (s.finishBlock).cmds = s.cmds := rfl
@[simp] theorem State.finishBlock_rsps (s : State) : (s.finishBlock).rsps = s.rsps ++ [.ok s.work.result] := rfl
@[simp] theorem State.finishBlock_recorded (s : State) : (s.finishBlock).recorded = s.recorded.or none := rfl
@[simp] theorem State.finishBlock_free (s : State) : (s.finishBlock).free = s.free + 1 := rfl

@[simp] theorem State.completeBlock_key (s : State) : (s.completeBlock).key = s.key := rfl
@[simp] theorem State.completeBlock_keyv (s : State) : (s.completeBlock).keyv = s.keyv := rfl
@[simp] theorem State.completeBlock_work (s : State) : (s.completeBlock).work = Work.undefined s.free := rfl
@[simp] theorem State.completeBlock_busy (s : State) : (s.completeBlock).busy = false := rfl
@[simp] theorem State.completeBlock_cmds (s : State) : (s.completeBlock).cmds = s.cmds := rfl
@[simp] theorem State.completeBlock_rsps (s : State) : (s.completeBlock).rsps = s.rsps ++ [.ok s.work.complete.result] := rfl
@[simp] theorem State.completeBlock_recorded (s : State) : (s.completeBlock).recorded = s.recorded.or none := rfl
@[simp] theorem State.completeBlock_free (s : State) : (s.completeBlock).free = s.free + 1 := rfl

@[simp] theorem State.loadKey_key (s : State) (k : Key) : (s.loadKey k).key = some k := rfl
@[simp] theorem State.loadKey_keyv (s : State) (k : Key) : (s.loadKey k).keyv = true := rfl
@[simp] theorem State.loadKey_work (s : State) (k : Key) : (s.loadKey k).work = Work.undefined s.free := rfl
@[simp] theorem State.loadKey_busy (s : State) (k : Key) : (s.loadKey k).busy = false := rfl
@[simp] theorem State.loadKey_cmds (s : State) (k : Key) : (s.loadKey k).cmds = s.cmds := rfl
@[simp] theorem State.loadKey_rsps (s : State) (k : Key) : (s.loadKey k).rsps = s.rsps ++ [.ok 0#64] := rfl
@[simp] theorem State.loadKey_recorded (s : State) (k : Key) : (s.loadKey k).recorded = s.recorded.or none := rfl
@[simp] theorem State.loadKey_free (s : State) (k : Key) : (s.loadKey k).free = s.free + 1 := rfl

@[simp] theorem State.offer_key (s : State) (w : CmdWord) : (s.offer w).key = s.key := rfl
@[simp] theorem State.offer_keyv (s : State) (w : CmdWord) : (s.offer w).keyv = s.keyv := rfl
@[simp] theorem State.offer_work (s : State) (w : CmdWord) : (s.offer w).work = s.work := rfl
@[simp] theorem State.offer_busy (s : State) (w : CmdWord) : (s.offer w).busy = s.busy := rfl
@[simp] theorem State.offer_cmds (s : State) (w : CmdWord) : (s.offer w).cmds = s.cmds ++ [w] := rfl
@[simp] theorem State.offer_rsps (s : State) (w : CmdWord) : (s.offer w).rsps = s.rsps := rfl
@[simp] theorem State.offer_recorded (s : State) (w : CmdWord) : (s.offer w).recorded = s.recorded := rfl
@[simp] theorem State.offer_free (s : State) (w : CmdWord) : (s.offer w).free = s.free := rfl

@[simp] theorem State.assertReset_key (s : State) : (s.assertReset).key = none := rfl
@[simp] theorem State.assertReset_keyv (s : State) : (s.assertReset).keyv = false := rfl
@[simp] theorem State.assertReset_work (s : State) : (s.assertReset).work = Work.undefined s.free := rfl
@[simp] theorem State.assertReset_busy (s : State) : (s.assertReset).busy = false := rfl
@[simp] theorem State.assertReset_cmds (s : State) : (s.assertReset).cmds = [] := rfl
@[simp] theorem State.assertReset_rsps (s : State) : (s.assertReset).rsps = [] := rfl
@[simp] theorem State.assertReset_recorded (s : State) : (s.assertReset).recorded = s.recorded := rfl
@[simp] theorem State.assertReset_free (s : State) : (s.assertReset).free = s.free + 1 := rfl

@[simp] theorem State.respondError_eq (s : State) (f : Fault) :
    s.respondError f = s.respond (match f with | .eNokey => .eNokey | .eIllop => .eIllop) := by
  cases f <;> rfl

@[simp] theorem Response.fault?_ok (v : BitVec 64) : (Response.ok v).fault? = none := rfl

@[simp] theorem Response.fault?_eNokey : Response.eNokey.fault? = some .eNokey := rfl

@[simp] theorem Response.fault?_eIllop : Response.eIllop.fault? = some .eIllop := rfl

end Sys2Proof.Machine
end

