-- ==== Sys2Proof/Laws/Ops.lean ====
section
/-! SUPPORT. What each shared operation can do, said once. -/

namespace Sys2Proof.Machine

@[simp] theorem State.keyBits_some {s : State} {k : Key} (h : s.key = some k) : s.keyBits = k := by
  simp [State.keyBits, h]

/-- A response leaves the same state whatever the transient registers and the sequencer held before it. -/
@[simp] theorem State.respond_setWorkBusy (s : State) (w : Work) (v : Bool) (r : Response) :
    State.respond r { s with work := w, busy := v } = s.respond r := rfl

@[simp] theorem State.respond_setWork (s : State) (w : Work) (r : Response) :
    State.respond r { s with work := w } = s.respond r := rfl

/-- The block command in flight answers the result of its remaining rounds. -/
theorem State.completeBlock_eq (s : State) : s.completeBlock = s.respond (.ok s.work.complete.result) := by
  rw [State.completeBlock, State.finishBlock, State.respond_setWork]

/-- A block command with a key loaded answers the result of its sixteen rounds. -/
theorem State.completeBlock_startBlock (s : State) (dir : BitVec 1) (b : Block) :
    (s.startBlock dir b).completeBlock = s.respond (.ok (Work.start dir b s.keyBits).complete.result) := by
  rw [State.completeBlock_eq, State.startBlock_work, State.startBlock, State.respond_setWorkBusy]

/-- An acceptance takes the oldest offered word from an idle engine with room, and changes nothing else. -/
theorem State.accept_eq_some {s s' : State} {w : CmdWord} :
    s.accept = some (w, s') ↔
      s.busy = false ∧ s.hasRoom = true ∧ s.cmds = w :: s'.cmds ∧ s' = { s with cmds := s'.cmds } := by
  unfold State.accept State.cmdReady
  cases hb : s.busy <;> cases hr : s.hasRoom <;> cases hc : s.cmds <;> simp
  constructor
  · rintro ⟨rfl, rfl⟩; simp
  · rintro ⟨⟨rfl, rfl⟩, h⟩; exact ⟨rfl, h.symm⟩

/-- No command is accepted exactly when none is offered or `cmd_ready` is 0. -/
theorem State.accept_eq_none {s : State} : s.accept = none ↔ s.cmdReady = false ∨ s.cmds = [] := by
  unfold State.accept
  cases s.cmdReady <;> cases s.cmds <;> simp

/-- The host takes the oldest untaken response, and changes nothing else. -/
theorem State.takeResponse_eq_some {s t : State} {r : Response} :
    s.takeResponse = some (r, t) ↔ s.rsps = r :: t.rsps ∧ t = { s with rsps := t.rsps } := by
  unfold State.takeResponse
  cases s.rsps with
  | nil => simp
  | cons r' rest =>
    simp only [Option.some.injEq, Prod.mk.injEq, List.cons.injEq]
    exact ⟨fun ⟨hr, ht⟩ => ht ▸ ⟨⟨hr, rfl⟩, rfl⟩, fun ⟨⟨hr, hrest⟩, ht⟩ => ⟨hr, by rw [ht, hrest]⟩⟩

/-- No response can be taken exactly when none is untaken. -/
theorem State.takeResponse_eq_none {s : State} : s.takeResponse = none ↔ s.rsps = [] := by
  unfold State.takeResponse
  cases s.rsps <;> simp

/-- A block command either starts and is completed, or answers `E_NOKEY`. -/
theorem State.blockCommand_cases (s : State) (dir : BitVec 1) (b : Block) :
    (s.keyv = true ∧ s.blockCommand dir b = (s.startBlock dir b).completeBlock) ∨
      (s.keyv = false ∧ s.blockCommand dir b = s.respond .eNokey) := by
  unfold State.blockCommand
  cases s.keyv <;> simp

/-- Every command answers a next state: the three cases a step can meet. -/
theorem exec_cases {i : Instr} {s : State} {o : Host.Outcome State Fault Refusal} (h : exec i s = o) :
    (∃ dir b, o = .next (s.blockCommand dir b)) ∨ (∃ k, i = .ldkey k ∧ o = .next (s.loadKey k)) ∨
      (∃ d, i = .reserved3 d ∧ o = .next (s.respond .eIllop)) := by
  subst h
  cases i with
  | enc b => exact .inl ⟨_, b, rfl⟩
  | dec b => exact .inl ⟨_, b, rfl⟩
  | ldkey k => exact .inr (.inl ⟨k, rfl, rfl⟩)
  | reserved3 d => exact .inr (.inr ⟨d, rfl, rfl⟩)

@[simp] theorem Work.round_rc (w : Work) : w.round.rc = w.rc + 1#5 := rfl
@[simp] theorem Work.round_l (w : Work) : w.round.l = w.r := rfl
@[simp] theorem Work.round_r (w : Work) : w.round.r = w.l ^^^ roundF w.r w.nextSubkey.1 := rfl
@[simp] theorem Work.round_c (w : Work) : w.round.c = w.nextSubkey.2.1 := rfl
@[simp] theorem Work.round_d (w : Work) : w.round.d = w.nextSubkey.2.2 := rfl
@[simp] theorem Work.round_dir (w : Work) : w.round.dir = w.dir := rfl

@[simp] theorem Work.start_rc (dir : BitVec 1) (b : Block) (key : Key) : (Work.start dir b key).rc = 0#5 := rfl
@[simp] theorem Work.start_l (dir : BitVec 1) (b : Block) (key : Key) :
    (Work.start dir b key).l = (splitBlock b).1 := rfl
@[simp] theorem Work.start_r (dir : BitVec 1) (b : Block) (key : Key) :
    (Work.start dir b key).r = (splitBlock b).2 := rfl
@[simp] theorem Work.start_c (dir : BitVec 1) (b : Block) (key : Key) :
    (Work.start dir b key).c = keyC0 key := rfl
@[simp] theorem Work.start_d (dir : BitVec 1) (b : Block) (key : Key) :
    (Work.start dir b key).d = keyD0 key := rfl
@[simp] theorem Work.start_dir (dir : BitVec 1) (b : Block) (key : Key) :
    (Work.start dir b key).dir = dir := rfl

/-- A round advances `RC` by exactly 1 while it is below 16. -/
theorem Work.round_rc_toNat {w : Work} (h : w.rc.toNat < 16) : w.round.rc.toNat = w.rc.toNat + 1 := by
  rw [Work.round_rc, BitVec.toNat_add, BitVec.toNat_ofNat]; omega

/-- The round that follows `RC` = n is that of key-schedule iteration n for `ENC`. -/
theorem Work.iteration_enc {w : Work} (h : w.rc.toNat < 16) (hd : w.dir = 0#1) :
    w.iteration.val = w.rc.toNat := by
  simp only [Work.iteration, hd, if_true, BitVec.extractLsb'_toNat, BitVec.val_toFin]
  simp; omega

/-- The round that follows `RC` = n is that of key-schedule iteration 15 - n for `DEC`. -/
theorem Work.iteration_dec {w : Work} (h : w.rc.toNat < 16) (hd : w.dir ≠ 0#1) :
    w.iteration.val = 15 - w.rc.toNat := by
  simp only [Work.iteration, hd, if_false, BitVec.extractLsb'_toNat, BitVec.val_toFin, Fin.val_rev]
  simp; omega

/-- A round leaves what the block command will answer. -/
theorem Work.round_complete {w : Work} (h : w.rc.toNat < 16) : w.round.complete = w.complete := by
  unfold Work.complete
  rw [Work.round_rc_toNat h, show 16 - w.rc.toNat = (16 - (w.rc.toNat + 1)) + 1 by omega]
  rfl

end Sys2Proof.Machine
end

