-- ==== Sys2Proof/Laws/PerInstr.lean ====
section
/-! SUPPORT. Statements made of every command, one lemma for each constructor. -/

namespace Sys2Proof.Laws

/-- A command's word carries its opcode in `CW[65:64]` and its operand, whole, in `CW[63:0]` (30_encoding R100,
R103). -/
def EncodeFields.Statement (i : Instr) : Prop :=
  i.wellFormed = true ∧ cmdWordOp (encode i) = i.op ∧ cmdWordData (encode i) = i.data

theorem EncodeFields.fields (i : Instr) : cmdWordOp (encode i) = i.op ∧ cmdWordData (encode i) = i.data := by
  unfold cmdWordOp cmdWordData encode
  constructor
  · exact BitVec.extractLsb'_append_eq_left
  · exact BitVec.extractLsb'_append_eq_right

/-- A command word is its opcode followed by its operand. -/
theorem cmdWord_split (w : CmdWord) : cmdWordOp w ++ cmdWordData w = w := by
  refine BitVec.eq_of_getLsbD_eq fun i hi => ?_
  rw [BitVec.getLsbD_append, cmdWordOp, cmdWordData, BitVec.getLsbD_extractLsb', BitVec.getLsbD_extractLsb']
  split
  · next h => simp [h]
  · next h => rw [show 64 + (i - 64) = i by omega]; simp [show i - 64 < 2 by omega]

theorem EncodeFields.enc (b : Block) : EncodeFields.Statement (.enc b) := ⟨rfl, EncodeFields.fields _⟩

theorem EncodeFields.dec (b : Block) : EncodeFields.Statement (.dec b) := ⟨rfl, EncodeFields.fields _⟩

theorem EncodeFields.ldkey (k : Key) : EncodeFields.Statement (.ldkey k) := ⟨rfl, EncodeFields.fields _⟩

theorem EncodeFields.reserved3 (d : BitVec 64) : EncodeFields.Statement (.reserved3 d) :=
  ⟨rfl, EncodeFields.fields _⟩

end Sys2Proof.Laws
end

