-- ==== Sys2Proof/Tests/Slice0.lean ====
section
/-! SUPPORT. Tests of the model against the spec's printed values (95_test_vectors unless another file is named), and
for every obligation with hypotheses a witness that meets them together. -/

namespace Sys2Proof.Tests

open Sys2Proof.Machine

/-! ## Well-formedness: an ill-formed term for each check (20_memory R67) -/

theorem test_wf_permTable_short : permTableWF 4 4 [4, 3, 2] = false := by decide
theorem test_wf_permTable_long : permTableWF 4 4 [4, 3, 2, 1, 1] = false := by decide
theorem test_wf_permTable_zero : permTableWF 4 4 [4, 3, 2, 0] = false := by decide
theorem test_wf_permTable_above : permTableWF 4 4 [4, 5, 2, 1] = false := by decide
theorem test_wf_permTable_good : permTableWF 4 4 [4, 3, 2, 1] = true := by decide
theorem test_wf_shifts_short : shiftsWF [1, 1, 2, 2, 2, 2, 2, 2, 1, 2, 2, 2, 2, 2, 2] = false := by decide
theorem test_wf_shifts_above : shiftsWF [1, 1, 2, 2, 2, 2, 2, 2, 1, 2, 2, 2, 2, 2, 2, 28] = false := by decide
theorem test_wf_sbox_rows : sboxWF (List.replicate 3 (List.range 16)) = false := by decide
theorem test_wf_sbox_columns : sboxWF (List.replicate 4 (List.range 15)) = false := by decide
theorem test_wf_sbox_entry : sboxWF (List.replicate 4 (16 :: List.range 15)) = false := by decide
theorem test_wf_sbox_good : sboxWF (List.replicate 4 (List.range 16)) = true := by decide

/-! ## Decoding: words written out from 30_encoding R100 and R102, op then data (V-E) -/

theorem test_decode_enc : decode (0b00#2 ++ 0x0123456789ABCDEF#64) = .enc 0x0123456789ABCDEF#64 := by decide
theorem test_decode_dec : decode (0b01#2 ++ 0x85E813540F0AB405#64) = .dec 0x85E813540F0AB405#64 := by decide
theorem test_decode_ldkey : decode (0b10#2 ++ 0x133457799BBCDFF1#64) = .ldkey 0x133457799BBCDFF1#64 := by decide
/-- The all-zero word is `ENC` of the zero block (30_encoding R105). -/
theorem test_witness_EveryWordIsTheWordOfItsCommand : encode (.enc 0#64) = 0#66 ∧
    encode (.reserved3 0xFFFFFFFFFFFFFFFF#64) = 0x3FFFFFFFFFFFFFFFF#66 := by decide
theorem test_decode_reserved : decode (0b11#2 ++ 0x133457799BBCDFF1#64) = .reserved3 0x133457799BBCDFF1#64 := by
  decide
/-- One bit at a time: bit 65 is `k`, bit 64 is `d`, bit 63 the top bit of the operand, bit 0 its bottom bit. -/
theorem test_decode_bits :
    decode (BitVec.twoPow 66 65) = .ldkey 0#64 ∧ decode (BitVec.twoPow 66 64) = .dec 0#64 ∧
    decode (BitVec.twoPow 66 63) = .enc 0x8000000000000000#64 ∧ decode (BitVec.twoPow 66 0) = .enc 1#64 := by decide
theorem test_encode_printed : encode (.ldkey 0x133457799BBCDFF1#64) = 0x2133457799BBCDFF1#66 ∧
    encode (.dec 0x85E813540F0AB405#64) = 0x185E813540F0AB405#66 := by decide
theorem test_tableWord : decodeTableWord 66 0x10123456789ABCDEF = some (.dec 0x0123456789ABCDEF#64) ∧
    decodeTableWord 72 0x2133457799BBCDFF1 = some (.ldkey 0x133457799BBCDFF1#64) ∧
    decodeTableWord 72 0x40000000000000000 = none := by decide
theorem test_response_words : (Response.ok 0x85E813540F0AB405#64).encode = 0x085E813540F0AB405#66 ∧
    Response.eNokey.encode = 0x10000000000000000#66 ∧ Response.eIllop.encode = 0x20000000000000000#66 := by decide

/-! ## The permutation unit (V-P1, V-P2) -/

theorem test_permute_ip : ip64 0x85E813540F0AB405#64 = 0x0A4CD99543423234#64 ∧
    ip64 0x4000000000000000#64 = 0x0100000000000000#64 ∧ ip64 1#64 = 0x0000008000000000#64 := by decide +kernel
theorem test_permute_fp : fp64 0x0A4CD99543423234#64 = 0x85E813540F0AB405#64 ∧
    fp64 1#64 = 0x0200000000000000#64 := by decide +kernel
theorem test_permute_e : e48 0x12345678#32 = 0x0A41A82AC3F0#48 ∧ e48 1#32 = 0x800000000002#48 := by decide +kernel
theorem test_permute_p : p32 0x12345678#32 = 0x6E34140E#32 ∧ p32 1#32 = 0x00000800#32 := by decide +kernel
theorem test_permute_pc1 : pc1 0x133457799BBCDFF1#64 = 0xF0CCAAF556678F#56 ∧
    pc1 0x0101010101010101#64 = 0#56 ∧ pc1 0x0200000000000000#64 = 0x00000000100000#56 := by decide +kernel
theorem test_permute_pc2 : pc2 0xE19955FAACCF1E#56 = 0x1B02EFFC7072#48 ∧ pc2 4#56 = 0#48 ∧
    pc2 1#56 = 0x000000000100#48 := by decide +kernel
/-- An operand stands right-aligned on the 64-bit bus (40_permute R142); a bus word with a higher bit set carries none
(93_implementation_defined U5, log entry 23). -/
theorem test_permUnit : permUnit 2 0xF0AAF0AA#64 = some 0x7A15557A1555#64 ∧ permUnit 6 0#64 = none ∧
    permUnit 2 0x100000000#64 = none ∧ permUnit 5 0xFFFFFFFFFFFFFF#64 = some 0xFFFFFFFFFFFF#64 ∧
    permUnit 5 0x100000000000000#64 = none := by decide +kernel

/-! ## The key schedule (V-K1 to V-K4) -/

theorem test_rotl28 : rotl28 0xABCDEF1#28 4 = 0xBCDEF1A#28 ∧ rotl28 0xABCDEF1#28 24 = 0x1ABCDEF#28 ∧
    rotl28 0x0000001#28 27 = 0x8000000#28 ∧ rotl28 0x0000001#28 28 = 0x0000001#28 := by decide
/-- The negative vector of 41_key_schedule R155. -/
theorem test_rotl28_masked : rotl28 0xF0CCAAF#28 1 ≠ 0xE19955E#28 := by decide
theorem test_rotr28 : rotr28 0xBCDEF1A#28 4 = 0xABCDEF1#28 ∧ rotr28 0xABCDEF1#28 0 = 0xABCDEF1#28 := by decide

/-- All sixteen subkeys of the known key (V-K2). -/
theorem test_schedule : (schedule 0x133457799BBCDFF1#64).toList =
    [0x1B02EFFC7072#48, 0x79AED9DBC9E5#48, 0x55FC8A42CF99#48, 0x72ADD6DB351D#48,
      0x7CEC07EB53A8#48, 0x63A53E507B2F#48, 0xEC84B7F618BC#48, 0xF78A3AC13BFB#48,
      0xE0DBEBEDE781#48, 0xB1F347BA464F#48, 0x215FD3DED386#48, 0x7571F59467E9#48,
      0x97C5D1FABA41#48, 0x5F43B7F2E73A#48, 0xBF918D3D3F0A#48, 0xCB3D8B0E17F5#48] := by
  decide +kernel
theorem test_schedule_semiweak : (schedule 0x01FE01FE01FE01FE#64)[0] = 0x9153E54319BD#48 ∧
    (schedule 0x01FE01FE01FE01FE#64)[1] = 0x6EAC1ABCE642#48 ∧
    (schedule 0x01FE01FE01FE01FE#64)[15] = 0x6EAC1ABCE642#48 := by decide +kernel
theorem test_cumulativeShift : (List.range 17).map cumulativeShift =
    [0, 1, 2, 4, 6, 8, 10, 12, 14, 15, 17, 19, 21, 23, 25, 27, 28] := by decide

/-! ## The round function: every S-box entry (V-F4) and the two worked rounds (V-F3) -/

/-- The row of V-F4 for a key: the word before `P`, and the result of the round function on 0. -/
def roundRow (row : Subkey × BitVec 32 × Half) : Bool :=
  substitute row.1 == row.2.1 && roundF 0#32 row.1 == row.2.2

theorem test_sboxes_0 : List.all
   [(0x000000000000#48, 0xEFA72C4D#32, 0xD8D8DBBC#32), (0x041041041041#48, 0x03DDEAD1#32, 0xD73559C1#32),
    (0x082082082082#48, 0x410DC1B2#32, 0x8306F441#32), (0x0C30C30C30C3#48, 0xFD78BF0F#32, 0x3DABEAFE#32),
    (0x104104104104#48, 0xD89E4A28#32, 0x1CEC9542#32), (0x145145145145#48, 0x740B24BD#32, 0x8A408EFB#32),
    (0x186186186186#48, 0x1EE31FE4#32, 0xF079253F#32), (0x1C71C71C71C7#48, 0x4795C278#32, 0xCF34D510#32),
    (0x208208208208#48, 0x266079F6#32, 0x721726B5#32), (0x249249249249#48, 0xEF36474A#32, 0x4CFEF21C#32),
    (0x28A28A28A28A#48, 0xFB36A20F#32, 0x4DEADAA6#32), (0x2CB2CB2CB2CB#48, 0x224F7C93#32, 0xF2471AC9#32),
    (0x30C30C30C30C#48, 0xB3F9B68B#32, 0xEDA34BCF#32), (0x34D34D34D34D#48, 0xD860D917#32, 0x338FA826#32),
    (0x38E38E38E38E#48, 0x845A68D1#32, 0x16D508D1#32), (0x3CF3CF3CF3CF#48, 0x1EA315A4#32, 0xE048253F#32)]
    roundRow = true := by
  decide +kernel

theorem test_sboxes_1 : List.all
   [(0x410410410410#48, 0x3911803A#32, 0x8F0A4602#32), (0x451451451451#48, 0xAC2456EC#32, 0x28BC163D#32),
    (0x492492492492#48, 0xA7D25DC9#32, 0x7CD56B19#32), (0x4D34D34D34D3#48, 0x60870135#32, 0x8240BF20#32),
    (0x514514514514#48, 0x62C83393#32, 0x6223ABC1#32), (0x555555555555#48, 0xC152FD56#32, 0x37D7E0A8#32),
    (0x596596596596#48, 0xCD75F47E#32, 0xAF9FD4BC#32), (0x5D75D75D75D7#48, 0xBAECAECB#32, 0x59BB1BCF#32),
    (0x618618618618#48, 0x5CBBDE55#32, 0xB77C897E#32), (0x659659659659#48, 0x96C13020#32, 0xE0810592#32),
    (0x69A69A69A69A#48, 0x904C07A0#32, 0x00A1344B#32), (0x6DB6DB6DB6DB#48, 0x59BA9BFE#32, 0x3F7AE567#32),
    (0x71C71C71C71C#48, 0x0524E56C#32, 0x091474BC#32), (0x75D75D75D75D#48, 0x3BFE8389#32, 0x4D697B47#32),
    (0x79E79E79E79E#48, 0x7A8F9B17#32, 0xF36ABB62#32), (0x7DF7DF7DF7DF#48, 0x85196862#32, 0x949644D0#32)]
    roundRow = true := by
  decide +kernel

theorem test_sboxes_2 : List.all
   [(0x820820820820#48, 0x40DA4917#32, 0x1647A960#32), (0x861861861861#48, 0xFD13B462#32, 0xA5DAC69A#32),
    (0x8A28A28A28A2#48, 0x1E662E4B#32, 0x587B189E#32), (0x8E38E38E38E3#48, 0xC8AF83B1#32, 0x83E8BD45#32),
    (0x924924924924#48, 0xE7491FB4#32, 0xF2A1E679#32), (0x965965965965#48, 0x8AD0C2DE#32, 0x4FBF0121#32),
    (0x9A69A69A69A6#48, 0x8B90B5D1#32, 0x67986989#32), (0x9E79E79E79E7#48, 0x21067C87#32, 0x30465AA9#32),
    (0xA28A28A28A28#48, 0xDA8CA2C9#32, 0x49B899C3#32), (0xA69A69A69A69#48, 0x436A1914#32, 0x7241E064#32),
    (0xAAAAAAAAAAAA#48, 0x64FBD83C#32, 0xBF458774#32), (0xAEBAEBAEBAEB#48, 0x9F91E54A#32, 0xCD9E619A#32),
    (0xB2CB2CB2CB2C#48, 0x2D377C7E#32, 0xBE5E56BC#32), (0xB6DB6DB6DB6D#48, 0x148D2FA8#32, 0x982035DB#32),
    (0xBAEBAEBAEBAE#48, 0xB10D83E2#32, 0x81B27643#32), (0xBEFBEFBEFBEF#48, 0x7278DA7D#32, 0x7F358E66#32)]
    roundRow = true := by
  decide +kernel

theorem test_sboxes_3 : List.all
   [(0xC30C30C30C30#48, 0xF5BFF7A0#32, 0xA5E4F7DF#32), (0xC71C71C71C71#48, 0x5B496B9F#32, 0xDA2FE8E3#32),
    (0xCB2CB2CB2CB2#48, 0xC81190F6#32, 0xA79A8421#32), (0xCF3CF3CF3CF3#48, 0xB6F4FE5C#32, 0x7FB513BE#32),
    (0xD34D34D34D34#48, 0x9C23C46A#32, 0x89DE041E#32), (0xD75D75D75D75#48, 0x37E50109#32, 0xC8017B16#32),
    (0xDB6DB6DB6DB6#48, 0x76CE5A8D#32, 0x78659B73#32), (0xDF7DF7DF7DF7#48, 0xEC3B97F0#32, 0xA7F8A65D#32),
    (0xE38E38E38E38#48, 0x3955610F#32, 0x8C0F7AA2#32), (0xE79E79E79E79#48, 0xA0BCA6E3#32, 0x05B21FCD#32),
    (0xEBAEBAEBAEBA#48, 0xA3A23D53#32, 0x72D26B8C#32), (0xEFBEFBEFBEFB#48, 0x05574025#32, 0x84455C30#32),
    (0xF3CF3CF3CF3C#48, 0x52E80B95#32, 0x5221A967#32), (0xF7DF7DF7DF7D#48, 0x6E225836#32, 0x724E8634#32),
    (0xFBEFBEFBEFBE#48, 0x0F74E628#32, 0x4D2D549C#32), (0xFFFFFFFFFFFF#48, 0xD9CE3DCB#32, 0x38DBF9CB#32)]
    roundRow = true := by
  decide +kernel

theorem test_round_known : roundF 0xEF4A6544#32 0x79AED9DBC9E5#48 = 0x3CAB87A3#32 ∧
    roundF 0x12345678#32 0x123456789ABC#48 = 0x6A335997#32 := by decide +kernel

/-! ## The block function (V-C1, V-C3) -/

/-- The halves after the first round of the known encryption (V-C1), from the micro-step registers. -/
theorem test_first_round : ((Work.start 0#1 0x0123456789ABCDEF#64 0x133457799BBCDFF1#64).round.l,
    (Work.start 0#1 0x0123456789ABCDEF#64 0x133457799BBCDFF1#64).round.r) = (0xF0AAF0AA#32, 0xEF4A6544#32) := by
  decide +kernel
/-- The halves after the first round of the known decryption (V-C2): K16 is used first. -/
theorem test_first_round_dec : ((Work.start 1#1 0x85E813540F0AB405#64 0x133457799BBCDFF1#64).round.l,
    (Work.start 1#1 0x85E813540F0AB405#64 0x133457799BBCDFF1#64).round.r) = (0x43423234#32, 0xC28C960D#32) := by
  decide +kernel
theorem test_encrypt_wide : encrypt 0x1000000000000001#64 0x3000000000000000#64 = 0x958E6E627A05557B#64 := by
  decide +kernel
theorem test_decrypt_wide : decrypt 0x0000000000000000#64 0x8001010101010101#64 = 0x1C29EEE68829F666#64 := by
  decide +kernel

/-! ## Commands, one step each on a small state -/

/-- An engine at rest with a key loaded. -/
def keyed (k : Key) : State := { State.reset with key := some k, keyv := true }

/-- The state a step leaves, or the given one where it would stop. -/
def after (o : Host.Outcome State Fault Refusal) (s : State) : State :=
  match o with
  | .next t => t
  | .fault _ => s
  | .refused _ => s

/-- The known vector through the port (43_cipher R211, program P1). -/
theorem test_step_enc : (after (step ((keyed 0x133457799BBCDFF1#64).withFetchWord 66 0x00123456789ABCDEF))
    State.reset).rsps = [.ok 0x85E813540F0AB405#64] := by decide +kernel
theorem test_step_dec : (after (step ((keyed 0x133457799BBCDFF1#64).withFetchWord 72 0x185E813540F0AB405))
    State.reset).rsps = [.ok 0x0123456789ABCDEF#64] := by decide +kernel
/-- The first command after reset (60_exceptions R244). -/
theorem test_step_nokey : (after (step (State.reset.withFetchWord 66 0x00123456789ABCDEF)) State.reset).rsps =
    [.eNokey] ∧ (after (step (State.reset.withFetchWord 66 0x10123456789ABCDEF)) State.reset).rsps = [.eNokey] := by
  decide
theorem test_step_ldkey : (after (step (State.reset.withFetchWord 66 0x2133457799BBCDFF1)) State.reset).arch =
    (some 0x133457799BBCDFF1#64, true) ∧
    (after (step (State.reset.withFetchWord 66 0x2133457799BBCDFF1)) State.reset).rsps = [.ok 0#64] := by decide
/-- The reserved opcode loads no key (30_encoding R104). -/
theorem test_step_reserved : (after (step ((keyed 1#64).withFetchWord 66 0x3133457799BBCDFF1)) State.reset).arch =
    (some 1#64, true) ∧
    (after (step ((keyed 1#64).withFetchWord 66 0x3133457799BBCDFF1)) State.reset).rsps = [.eIllop] := by decide
/-- A step from reset with nothing offered waits (60_exceptions R259). -/
theorem test_step_idle : step State.reset = .next State.reset := rfl
/-- The engine that stores the subkeys, loaded and then encrypting (10_state R25). -/
theorem test_cached_enc : (((Cached.reset.exec (.ldkey 0x133457799BBCDFF1#64)).exec
    (.enc 0x0123456789ABCDEF#64)).core.rsps) = [.ok 0#64, .ok 0x85E813540F0AB405#64] := by decide +kernel
/-- An `LDKEY` waits for a block in flight on the overlapped engine (20_memory R82). -/
theorem test_pipe_ldkey_waits : Pipe.move 16 (.accept (.ldkey 0#64))
    { key := some 0#64, keyv := true, slots := [.block (Work.start 0#1 0#64 0#64)], rsps := [] } = none := by decide
/-- The oldest response is taken first, as the word at the port (30_encoding R107). -/
theorem test_take_oldest : ({ State.reset with rsps := [.eNokey, .ok 5#64] } : State).rspWord =
    some 0x10000000000000000#66 ∧ ({ State.reset with rsps := [.eNokey, .ok 5#64] } : State).takeResponse =
    some (.eNokey, { State.reset with rsps := [.ok 5#64] }) := by decide
/-- Reset drops what was offered and answered, and the key (70_reset_and_hazards R271). -/
theorem test_reset_drops : ({ keyed 5#64 with cmds := [0#66], rsps := [.eIllop] } : State).assertReset.arch =
    (none, false) ∧ ({ keyed 5#64 with cmds := [0#66], rsps := [.eIllop] } : State).assertReset.rsps = [] := by decide

/-! ## Text (30_encoding R109, R110) -/

theorem test_parse_ldkey : parseLine "LDKEY 0x133457799BBCDFF1 ; the key".toList =
    some (.ldkey 0x133457799BBCDFF1#64) := by decide
theorem test_parse_word : parseLine ".word 0x3133457799BBCDFF1".toList = some (.word 0x3133457799BBCDFF1#66) ∧
    parseLine ".word 0x40000000000000000".toList = none := by decide
theorem test_parse_enck : parseLine "ENCK 0x0000000000000001, 0x0000000000000002".toList = some (.enck 1#64 2#64) ∧
    parseLine "RESET".toList = some .reset ∧ parseLine "ENC 0x12".toList = none := by decide
theorem test_response_text : (Response.ok 0x85E813540F0AB405#64).text = "-> OK 0x85E813540F0AB405".toList ∧
    Response.eNokey.text = "-> ERR E_NOKEY".toList ∧ Response.eIllop.text = "-> ERR E_ILLOP".toList := by decide

/-! ## Witnesses: the hypotheses of each obligation, met together -/

/-- A block in flight after `n` rounds, as `ENC` (0) or `DEC` (1), under the known key. -/
def inFlight (dir : BitVec 1) (n : Nat) : State :=
  { keyed 0x133457799BBCDFF1#64 with
    busy := true
    work := Work.rounds n (Work.start dir 0x0123456789ABCDEF#64 0x133457799BBCDFF1#64) }

/-- An engine at rest but for one offered word. -/
def offered (w : CmdWord) : State := { keyed 0x133457799BBCDFF1#64 with cmds := [w] }

theorem test_witness_DecodeOfEncodeIsTheCommand :
    (Instr.enc 0#64).wellFormed = true ∧ (Instr.dec 0xFFFFFFFFFFFFFFFF#64).wellFormed = true ∧
    (Instr.ldkey 1#64).wellFormed = true ∧ (Instr.reserved3 0x8000000000000000#64).wellFormed = true := by decide

theorem test_witness_OpcodeMapSelectsTheCommand : cmdWordIsKey 0#66 = false ∧ cmdWordDir 0#66 = 0#1 ∧
    cmdWordIsKey 0x1FFFFFFFFFFFFFFFF#66 = false ∧ cmdWordDir 0x1FFFFFFFFFFFFFFFF#66 = 1#1 := by decide

theorem test_witness_ResponseWordsRoundTrip :
    decodeResponse 0x085E813540F0AB405#66 = some (.ok 0x85E813540F0AB405#64) ∧
    decodeResponse 0x10000000000000000#66 = some .eNokey ∧ decodeResponse 0x20000000000000000#66 = some .eIllop ∧
    decodeResponse 0x10000000000000001#66 = none ∧ decodeResponse 0x30000000000000000#66 = none := by decide

/-- The first and the last bit: FIPS bit 1 is the top bit of byte 0, bit 64 the bottom bit of byte 7. -/
theorem test_witness_PackedBytesAreBigEndian :
    (byteOfWord 0x8000000000000000#64 0).getLsbD 7 = true ∧ (byteOfWord 1#64 7).getLsbD 0 = true ∧
    fipsBit 0x8000000000000000#64 1 = true ∧ fipsBit 1#64 64 = true := by decide

theorem test_witness_PseudoInstructionsExpand :
    State.reset.busy = false ∧ State.reset.cmds = [] ∧ State.reset.rsps = [] := by decide

theorem test_witness_RomMapPlacesEveryTable : 63 < Table.size .ip ∧ romLinear 63 = some 7 ∧
    63 < Table.size (.s 7) ∧ romLinear 839 = some 11 ∧ romLinear 840 = none ∧ Table.ofTsel 15 = some (.s 7) ∧
    Table.ofTsel 16 = none := by decide

/-- Output bits 63 and 0 of `IP`: entries 58 and 7, that is input bits 6 and 57 (20_memory R52). -/
theorem test_witness_PermuteCopiesTheNamedBits :
    (permute ipTable (BitVec.twoPow 64 6)).getLsbD 63 = true ∧
    (permute ipTable (BitVec.twoPow 64 57)).getLsbD 0 = true := by decide +kernel

/-- Input position 1 of `E` goes to output positions 2 and 48, and to no other end (V-P2). -/
theorem test_witness_PermuteLaws : fipsBit (permute eTable (BitVec.twoPow 32 31)) 2 = true ∧
    fipsBit (permute eTable (BitVec.twoPow 32 31)) 48 = true ∧
    fipsBit (permute eTable (BitVec.twoPow 32 31)) 1 = false := by decide +kernel

theorem test_witness_RotationStaysInTwentyEightBits :
    (rotl28 0x8000000#28 1).getLsbD ((27 + 1) % 28) = true ∧ (rotl28 1#28 27).getLsbD ((0 + 27) % 28) = true := by
  decide

theorem test_witness_RotationsCompose : rotl28 (rotl28 0xABCDEF1#28 27) (28 - 27) = 0xABCDEF1#28 ∧
    rotl28 (rotl28 0xABCDEF1#28 0) (28 - 0) = 0xABCDEF1#28 := by decide

/-- Two different keys that differ only in parity bits (V-K4). -/
theorem test_witness_ParityBitsDoNotReachTheSchedule :
    clearParity 0x133457799BBCDFF1#64 = clearParity 0x123456789ABCDEF0#64 ∧
    0x133457799BBCDFF1#64 ≠ 0x123456789ABCDEF0#64 := by decide

theorem test_witness_CompressedKeySplits : (permute pc1Table 0x133457799BBCDFF1#64).getLsbD (28 + 27) = true ∧
    (keyC0 0x133457799BBCDFF1#64).getLsbD 27 = true ∧ (keyD0 0x133457799BBCDFF1#64).getLsbD 27 = false := by
  decide +kernel

theorem test_witness_ChunksAndNibblesKeepTheirOrder :
    (chunk (BitVec.twoPow 48 47) 0).getLsbD 5 = true ∧ (chunk (BitVec.twoPow 48 0) 7).getLsbD 0 = true ∧
    (substitute 0x6117BA866527#48).getLsbD (28 - 4 * 7 + 0) = (sboxNibble 0x6117BA866527#48 7).getLsbD 0 := by
  decide +kernel

/-- The column bits 3 and 0 are the chunk bits 4 and 1. -/
theorem test_witness_RowAndColumnOfAChunk : (chunkCol 0b010000#6).getLsbD 3 = true ∧
    (chunkCol 0b000010#6).getLsbD 0 = true ∧ chunkRow 0b100000#6 = 2#2 ∧ chunkRow 0b000001#6 = 1#2 := by decide

theorem test_witness_RoundFunctionSeesOnlyTheMixedKey :
    e48 0xFFFFFFFF#32 ^^^ 0x000000000000#48 = e48 0x00000000#32 ^^^ 0xFFFFFFFFFFFF#48 := by decide +kernel

theorem test_witness_WeakKeysMakeOneFunction :
    schedule 0x0101010101010101#64 = Vector.replicate 16 0x000000000000#48 ∧
    clearParity 0x0101010101010101#64 = 0#64 ∧ clearParity 0xFFFFFFFFFFFFFFFF#64 = 0xFEFEFEFEFEFEFEFE#64 ∧
    clearParity 0x1E1F1F1F0E0E0E0F#64 = clearParity 0x1F1F1F1F0E0E0E0E#64 ∧
    clearParity 0xE1E0E0E0F1F1F1F0#64 = clearParity 0xE0E0E0E0F1F1F1F1#64 := by decide +kernel

/-- Both clauses of `ENC` and `DEC`: a key loaded, the worked key among them, and none. -/
theorem test_witness_EncAnswersTheCiphertext : (keyed 0x133457799BBCDFF1#64).keyv = true ∧
    (keyed 0x133457799BBCDFF1#64).key = some 0x133457799BBCDFF1#64 ∧ State.reset.keyv = false := by decide

theorem test_witness_DecAnswersThePlaintext : (keyed 0x133457799BBCDFF1#64).keyv = true ∧
    (keyed 0x133457799BBCDFF1#64).key = some 0x133457799BBCDFF1#64 ∧ State.reset.keyv = false := by decide

theorem test_witness_LdkeyLoadsTheKey : (keyed 7#64).arch = (some 7#64, true) ∧
    ∃ t, exec (.ldkey 7#64) (keyed 7#64) = .next t := ⟨rfl, _, rfl⟩

theorem test_witness_ReservedOpcodeAnswersIllop : (∃ t, exec (.reserved3 9#64) (keyed 7#64) = .next t) ∧
    (keyed 7#64).KeyHeld ∧ State.reset.KeyHeld := ⟨⟨_, rfl⟩, rfl, rfl⟩

/-- The clauses of `E_NOKEY`: answered without a key, not answered with one, none after an `LDKEY`. -/
theorem test_witness_NokeyExactlyWithoutAKey :
    (∃ t, exec (.dec 1#64) State.reset = .next t ∧ t.rsps = State.reset.rsps ++ [.eNokey]) ∧
    (∃ t, exec (.reserved3 1#64) State.reset = .next t ∧ t.rsps ≠ State.reset.rsps ++ [.eNokey]) ∧
    State.reset.keyv = false ∧ (keyed 1#64).keyv = true ∧
    (∃ t, exec (.ldkey 1#64) State.reset = .next t ∧ t.keyv = true) :=
  ⟨⟨_, rfl, rfl⟩, ⟨_, rfl, by decide⟩, rfl, rfl, _, rfl, rfl⟩

theorem test_witness_BlockAndReservedCommandFrame : (∀ k, Instr.enc 1#64 ≠ .ldkey k) ∧
    (∃ t, exec (.enc 1#64) (keyed 7#64) = .next t) ∧ (∃ t, exec (.enc 1#64) State.reset = .next t) ∧
    (keyed 7#64).arch = ({ keyed 7#64 with rsps := [.eIllop], recorded := some .eIllop } : State).arch ∧
    (keyed 7#64).KeyHeld := ⟨fun _ => by simp, ⟨_, rfl⟩, ⟨_, rfl⟩, rfl, rfl⟩

theorem test_witness_BlockCommandsCommute : (keyed 7#64).AtRest ∧ (keyed 7#64).KeyHeld ∧
    ∀ i ∈ [Instr.enc 1#64, .dec 2#64, .enc 1#64], ∀ k, i ≠ .ldkey k :=
  ⟨by decide, rfl, by simp⟩

theorem test_witness_LdkeyIsOrderedAgainstBlocks : (keyed 7#64).AtRest ∧ (keyed 7#64).arch = (some 7#64, true) ∧
    (∀ i ∈ [Instr.enc 1#64, .dec 2#64], ∀ k, i ≠ .ldkey k) ∧ (∀ i ∈ [Instr.dec 3#64], ∀ k, i ≠ .ldkey k) :=
  ⟨by decide, rfl, by simp, by simp⟩

/-- An engine without a key and one with a key both meet the hypotheses; the reference answers of the spec for a short
stream with a reset in it (program P7). -/
theorem test_witness_StreamIsAnsweredInOrder : State.reset.AtRest ∧ State.reset.KeyHeld ∧ (keyed 7#64).AtRest ∧
    (keyed 7#64).KeyHeld ∧ streamAnswers (some 7#64) [.reset, .command 0x00000000000000000#66] = [.eNokey] ∧
    streamAnswers none [.command 0x3133457799BBCDFF1#66, .command 0x2133457799BBCDFF1#66,
      .command 0x00123456789ABCDEF#66] = [.eIllop, .ok 0#64, .ok 0x85E813540F0AB405#64] := by decide +kernel

theorem test_witness_RepeatedCommandsChangeNothingMore : (keyed 7#64).KeyHeld ∧
    (∃ t u, exec (.enc 1#64) (keyed 7#64) = .next t ∧ exec (.enc 1#64) t = .next u) ∧
    (∀ k, Instr.enc 1#64 ≠ .ldkey k) ∧
    ∃ t u, exec (.ldkey 1#64) (keyed 7#64) = .next t ∧ exec (.ldkey 1#64) t = .next u :=
  ⟨rfl, ⟨_, _, rfl, rfl⟩, by simp, _, _, rfl, rfl⟩

theorem test_witness_DecOfEncIsTheBlock : (keyed 0x133457799BBCDFF1#64).keyv = true ∧
    (keyed 0x133457799BBCDFF1#64).KeyHeld ∧
    ∃ t c u, exec (.enc 0x0123456789ABCDEF#64) (keyed 0x133457799BBCDFF1#64) = .next t ∧
      t.rsps = (keyed 0x133457799BBCDFF1#64).rsps ++ [.ok c] ∧ exec (.dec c) t = .next u :=
  ⟨rfl, rfl, _, _, _, rfl, rfl, rfl⟩

theorem test_witness_StepRunsTheDecodedCommand : (offered 5#66).busy = false ∧ (offered 5#66).hasRoom = true ∧
    (offered 5#66).cmds = [5#66] := by decide

/-- An idle engine with nothing offered, and one that holds as many responses as it can. -/
theorem test_witness_IdleEngineWaits : State.reset.busy = false ∧ State.reset.cmds = [] ∧ State.reset.rsps = [] ∧
    ({ offered 5#66 with rsps := List.replicate (Config.rspExtra + 1) .eNokey } : State).busy = false ∧
    ({ offered 5#66 with rsps := List.replicate (Config.rspExtra + 1) .eNokey } : State).hasRoom = false := by
  refine ⟨rfl, rfl, rfl, rfl, ?_⟩
  simp [State.hasRoom, List.replicate_succ]

/-- A step of an idle engine that takes a command, and one of a busy engine; more responses than can be held. -/
theorem test_witness_NothingIsDroppedOrOverwritten : (offered 5#66).busy = false ∧
    (∃ t, step (offered 5#66) = .next t ∧ (offered 5#66).cmds = 5#66 :: t.cmds) ∧ (inFlight 0#1 16).busy = true ∧
    (∃ t, step (inFlight 0#1 16) = .next t) ∧ State.reset.busy = false ∧ State.reset.rsps = [] ∧
    ({ State.reset with rsps := [.eNokey, .ok 5#64] } : State).rsps = .eNokey :: [.ok 5#64] ∧
    Config.rspExtra + 1 ≤
      ({ State.reset with rsps := List.replicate (Config.rspExtra + 1) .eIllop } : State).rsps.length :=
  ⟨rfl, ⟨_, rfl, rfl⟩, rfl, ⟨_, rfl⟩, rfl, rfl, rfl, by simp⟩

theorem test_witness_OfferedWordRunsNext : decodeTableWord 66 0 = some (.enc 0#64) ∧
    decodeTableWord 72 0x3FFFFFFFFFFFFFFFF = some (.reserved3 0xFFFFFFFFFFFFFFFF#64) := by decide

/-- A step and a micro-step that keep the key, and one that loads it. -/
theorem test_witness_OnlyLdkeyAndResetWriteTheKey : (∃ t, step State.reset = .next t) ∧
    (offered 0x20000000000000007#66).hasRoom = true ∧
    (∃ t, step (offered 0x20000000000000007#66) = .next t ∧ t.arch = (some 7#64, true)) ∧
    microStep State.reset = State.reset ∧
    (∃ r t, ({ keyed 7#64 with rsps := [.eIllop] } : State).takeResponse = some (r, t)) :=
  ⟨⟨_, rfl⟩, rfl, ⟨_, rfl, rfl⟩, rfl, _, _, rfl⟩

theorem test_witness_StepKeepsInv : State.reset.Inv ∧ (offered 5#66).Inv ∧
    (∃ t, step (offered 5#66) = .next t) ∧ (inFlight 0#1 16).Inv ∧ (∃ t, step (inFlight 0#1 16) = .next t) :=
  ⟨by decide, by decide, ⟨_, rfl⟩, by decide +kernel, _, rfl⟩

theorem test_witness_MicroStepsAndHostMovesKeepInv : (inFlight 0#1 0).Inv ∧ (inFlight 1#1 16).Inv ∧
    ({ keyed 7#64 with rsps := [.eIllop], recorded := some .eIllop } : State).Inv ∧
    (∃ r t, ({ keyed 7#64 with rsps := [.eIllop], recorded := some .eIllop } : State).takeResponse = some (r, t)) :=
  ⟨by decide +kernel, by decide +kernel, by decide, _, _, rfl⟩

/-- Two engines that reset makes equal: one with a block in flight, an offered word and an untaken response. -/
theorem test_witness_ResetDropsTheCommandInFlight :
    (inFlight 0#1 3).free = State.reset.free ∧ (inFlight 0#1 3).recorded = State.reset.recorded ∧
    (inFlight 0#1 3).busy = true ∧ (inFlight 0#1 3).key ≠ State.reset.key := by decide +kernel

theorem test_witness_FirstFaultIsKept :
    (∃ t, step { offered 5#66 with recorded := some .eIllop } = .next t) ∧
    (∃ r u, ({ keyed 7#64 with rsps := [.eIllop], recorded := some .eIllop } : State).takeResponse = some (r, u)) ∧
    (keyed 7#64).NoFault ∧
    (∃ t, exec (.reserved3 0#64) (keyed 7#64) = .next t ∧ ¬ t.NoFault) ∧
    (∃ t, exec (.ldkey 0#64) (keyed 7#64) = .next t ∧ t.NoFault) :=
  ⟨⟨_, rfl⟩, ⟨_, _, rfl⟩, rfl, ⟨_, rfl, by decide⟩, _, rfl, rfl⟩

theorem test_witness_ParityBitsNeverShow :
    (offered 5#66).SameUpToParity { offered 5#66 with key := some 0x123456789ABCDEF0#64 } ∧
    (∃ t, step (offered 5#66) = .next t) ∧
    (∃ t, step { offered 5#66 with key := some 0x123456789ABCDEF0#64 } = .next t) :=
  ⟨by decide, ⟨_, rfl⟩, _, rfl⟩

/-- Clause 1: `ENC` and `DEC` accepted with a key loaded. Clause 4: `ENC` accepted without one, and an `LDKEY`. -/
theorem test_witness_StepIsStartSixteenRoundsFinish_accept :
    (offered 0x00123456789ABCDEF#66).busy = false ∧
    (offered 0x00123456789ABCDEF#66).accept = some (0x00123456789ABCDEF#66, keyed 0x133457799BBCDFF1#64) ∧
    (keyed 0x133457799BBCDFF1#64).keyv = true ∧
    decode 0x00123456789ABCDEF#66 = .enc 0x0123456789ABCDEF#64 ∧
    (offered 0x185E813540F0AB405#66).accept = some (0x185E813540F0AB405#66, keyed 0x133457799BBCDFF1#64) ∧
    decode 0x185E813540F0AB405#66 = .dec 0x85E813540F0AB405#64 ∧
    (State.reset.offer 5#66).accept = some (5#66, State.reset) ∧ State.reset.keyv = false ∧
    decode 0x20000000000000007#66 = .ldkey 7#64 := by decide

/-- A block in flight after `n` rounds keeps the halves of the key schedule: the two ends of the count. -/
theorem test_inFlight_track : (inFlight 0#1 0).KeyHalvesTrack ∧ (inFlight 0#1 15).KeyHalvesTrack ∧
    (inFlight 1#1 0).KeyHalvesTrack ∧ (inFlight 1#1 15).KeyHalvesTrack := by
  unfold State.KeyHalvesTrack
  decide +kernel

/-- Clauses 2, 3 and 5: a block in flight before its first, before its last and after its last round. -/
theorem test_witness_StepIsStartSixteenRoundsFinish_inFlight :
    (inFlight 0#1 0).work.rc.toNat = (0 : Fin 16).val ∧ (inFlight 0#1 15).work.rc.toNat = (15 : Fin 16).val ∧
    (inFlight 1#1 15).work.rc.toNat = (15 : Fin 16).val ∧ (inFlight 0#1 16).work.rc = 16#5 ∧
    (inFlight 1#1 16).busy = true ∧ (inFlight 1#1 16).work.rc.toNat ≤ 16 := by decide +kernel

theorem test_witness_MicroStepKeepsKeyHalves : (inFlight 0#1 0).Inv ∧ (inFlight 1#1 15).Inv ∧
    (inFlight 0#1 0).KeyHalvesTrack ∧ (inFlight 1#1 15).KeyHalvesTrack :=
  ⟨by decide +kernel, by decide +kernel, test_inFlight_track.1, test_inFlight_track.2.2.2⟩

/-- An engine with the stored copy, after reset and with a key loaded. -/
theorem test_witness_StoredSubkeysCannotBeObserved : Cached.reset.core.KeyHeld ∧ Cached.reset.Coherent ∧
    (⟨keyed 7#64, some (schedule 7#64)⟩ : Cached).core.KeyHeld ∧
    (⟨keyed 7#64, some (schedule 7#64)⟩ : Cached).Coherent :=
  ⟨rfl, fun h => absurd h (by decide), rfl, fun _ => rfl⟩

/-- The overlapped engine with one answered command in flight matches a serial engine; each kind of move is enabled. -/
theorem test_witness_OverlappedEngineAnswersSerially :
    (⟨some 7#64, true, [.answered .eIllop], []⟩ : Pipe).Matches { keyed 7#64 with rsps := [.eIllop] } ∧
    ({ keyed 7#64 with rsps := [.eIllop] } : State).KeyHeld ∧
    (∃ p, (⟨some 7#64, true, [.answered .eIllop], []⟩ : Pipe).move 2 (.accept (.enc 1#64)) = some p) ∧
    (∃ p, (⟨some 7#64, true, [.answered .eIllop], []⟩ : Pipe).move 2 (.advance 0) = some p) ∧
    (∃ p, (⟨some 7#64, true, [.answered .eIllop], []⟩ : Pipe).move 2 .retire = some p) ∧
    (⟨some 7#64, true, [], [.eIllop]⟩ : Pipe).Matches { keyed 7#64 with rsps := [.eIllop] } ∧
    (∃ p, (⟨some 7#64, true, [], [.eIllop]⟩ : Pipe).move 1 (.accept (.ldkey 1#64)) = some p) :=
  ⟨⟨rfl, rfl, rfl⟩, rfl, ⟨_, rfl⟩, ⟨_, rfl⟩, ⟨_, rfl⟩, ⟨rfl, rfl, rfl⟩, _, rfl⟩

end Sys2Proof.Tests
end

section
/-! PROOF. The engine that stores the subkeys answers as the one that makes them anew (10_state R25): the sequencer's
sixteen rounds are the block function over `schedule(KEY)`, in the order of `DIR`. -/

namespace Sys2Proof.Machine

/-! ### Rotations of the key halves -/

/-- Bit `i` of a rotated half is the bit `n` places below it, counted modulo 28 (41_key_schedule R153). -/
theorem getLsbD_rotl28 (v : KeyHalf) (n : Nat) {i : Nat} (hi : i < 28) :
    (rotl28 v n).getLsbD i = v.getLsbD ((i + (28 - n % 28)) % 28) := by
  rw [rotl28_eq_rotateLeft, BitVec.getLsbD_rotateLeft]
  by_cases h : i < n % 28
  · rw [show (i + (28 - n % 28)) % 28 = 28 - n % 28 + i by omega]
    simp [h]
  · rw [show (i + (28 - n % 28)) % 28 = i - n % 28 by omega]
    simp [h, hi]

theorem rotl28_rotl28 (v : KeyHalf) (m n : Nat) : rotl28 (rotl28 v m) n = rotl28 v (m + n) := by
  refine BitVec.eq_of_getLsbD_eq fun i hi => ?_
  rw [getLsbD_rotl28 _ _ hi, getLsbD_rotl28 _ _ (Nat.mod_lt _ (by omega)), getLsbD_rotl28 _ _ hi]
  congr 1
  omega

/-- A rotation by a whole number of turns changes nothing. -/
theorem rotl28_of_mod_eq_zero (v : KeyHalf) {n : Nat} (h : n % 28 = 0) : rotl28 v n = v := by
  refine BitVec.eq_of_getLsbD_eq fun i hi => ?_
  rw [getLsbD_rotl28 _ _ hi, h]
  congr 1
  omega

@[simp] theorem rotr28_rotl28 (v : KeyHalf) (n : Nat) : rotr28 (rotl28 v n) n = v := by
  rw [rotr28, rotl28_rotl28]
  exact rotl28_of_mod_eq_zero v (by omega)

/-! ### The reverse generation makes the subkeys backwards -/

/-- The last iteration of a schedule makes its subkey from the halves rotated by the whole sum (41_key_schedule
R160). -/
theorem scheduleFrom_concat (amounts : List Nat) (n : Nat) (c d : KeyHalf) :
    scheduleFrom (amounts ++ [n]) c d = scheduleFrom amounts c d ++
      [subkeyOf (rotl28 c (amounts.sum + n)) (rotl28 d (amounts.sum + n))] := by
  induction amounts generalizing c d with
  | nil => simp [scheduleFrom]
  | cons m rest ih => simp [scheduleFrom, ih, rotl28_rotl28, Nat.add_assoc]

/-- From the halves after the last iteration, the right rotations give the subkeys in the opposite order. -/
theorem reverseScheduleFrom_reverse (amounts : List Nat) (c d : KeyHalf) :
    reverseScheduleFrom amounts.reverse (rotl28 c amounts.sum) (rotl28 d amounts.sum) =
      (scheduleFrom amounts c d).reverse := by
  induction amounts using List.reverseRecOn with
  | nil => rfl
  | append_singleton amounts n ih =>
    have hsum : (amounts ++ [n]).sum = amounts.sum + n := by simp
    simp only [hsum, scheduleFrom_concat, List.reverse_append, List.reverse_singleton, List.singleton_append,
      reverseScheduleFrom, ← rotl28_rotl28 _ amounts.sum n, rotr28_rotl28, ih]

/-- The rotation amounts sum to one whole turn, so the reverse generation may start from `C₀`, `D₀` (41_key_schedule
R161). -/
theorem reverseSchedule_eq_reverse (key : Key) : reverseSchedule key = (schedule key).toList.reverse := by
  have hturn : shiftTable.amounts.sum % 28 = 0 := by decide
  rw [toList_schedule, ← reverseScheduleFrom_reverse, rotl28_of_mod_eq_zero _ hturn, rotl28_of_mod_eq_zero _ hturn,
    reverseSchedule]

/-! ### The sequencer runs the block function -/

theorem length_shiftAmounts : shiftTable.amounts.length = 16 := rfl

/-- The subkeys of the rounds still to do, from the halves `C` and `D` of the block in flight: forwards for `ENC`,
backwards for `DEC` (41_key_schedule R157, R161). -/
def Work.keysAhead (w : Work) : List Subkey :=
  if w.dir = 0#1 then scheduleFrom (shiftTable.amounts.drop w.rc.toNat) w.c w.d
  else reverseScheduleFrom (shiftTable.amounts.reverse.drop w.rc.toNat) w.c w.d

theorem Work.keysAhead_enc {w : Work} (hd : w.dir = 0#1) :
    w.keysAhead = scheduleFrom (shiftTable.amounts.drop w.rc.toNat) w.c w.d := if_pos hd

theorem Work.keysAhead_dec {w : Work} (hd : w.dir ≠ 0#1) :
    w.keysAhead = reverseScheduleFrom (shiftTable.amounts.reverse.drop w.rc.toNat) w.c w.d := if_neg hd

/-- After sixteen rounds no subkey is left. -/
theorem Work.keysAhead_eq_nil {w : Work} (h : 16 ≤ w.rc.toNat) : w.keysAhead = [] := by
  unfold Work.keysAhead
  split
  · rw [List.drop_eq_nil_of_le (length_shiftAmounts ▸ h), scheduleFrom]
  · rw [List.drop_eq_nil_of_le (by rwa [List.length_reverse, length_shiftAmounts]), reverseScheduleFrom]

/-- A round uses the first of the subkeys ahead and leaves the others. -/
theorem Work.keysAhead_eq_cons {w : Work} (h : w.rc.toNat < 16) :
    w.keysAhead = w.nextSubkey.1 :: w.round.keysAhead := by
  by_cases hd : w.dir = 0#1
  · have hdrop : shiftTable.amounts.drop w.rc.toNat =
        shiftAmount w.iteration :: shiftTable.amounts.drop (w.rc.toNat + 1) := by
      rw [List.drop_eq_getElem_cons (by rw [length_shiftAmounts]; exact h)]
      simp only [shiftAmount, Work.iteration_enc h hd]
    rw [Work.keysAhead_enc hd, Work.keysAhead_enc (w := w.round) hd, hdrop, Work.round_rc_toNat h]
    simp [scheduleFrom, Work.nextSubkey, hd]
  · have hdrop : shiftTable.amounts.reverse.drop w.rc.toNat =
        shiftAmount w.iteration :: shiftTable.amounts.reverse.drop (w.rc.toNat + 1) := by
      rw [List.drop_eq_getElem_cons (by rw [List.length_reverse, length_shiftAmounts]; exact h), List.getElem_reverse]
      simp only [shiftAmount, Work.iteration_dec h hd, length_shiftAmounts]
    rw [Work.keysAhead_dec hd, Work.keysAhead_dec (w := w.round) hd, hdrop, Work.round_rc_toNat h]
    simp [reverseScheduleFrom, Work.nextSubkey, hd]

/-- A block in flight answers the Feistel rounds over the subkeys ahead, applied to its halves. -/
theorem Work.result_complete (w : Work) :
    w.complete.result = joinBlock (feistelRounds w.keysAhead (w.l, w.r)) := by
  induction hn : 16 - w.rc.toNat generalizing w with
  | zero =>
    rw [Work.keysAhead_eq_nil (by omega), Work.complete, hn]
    rfl
  | succ n ih =>
    have hlt : w.rc.toNat < 16 := by omega
    rw [← Work.round_complete hlt, ih w.round (by rw [Work.round_rc_toNat hlt]; omega), Work.keysAhead_eq_cons hlt]
    rfl

theorem Work.keysAhead_start_enc (b : Block) (key : Key) :
    (Work.start 0#1 b key).keysAhead = (schedule key).toList := rfl

theorem Work.keysAhead_start_dec (b : Block) (key : Key) :
    (Work.start 1#1 b key).keysAhead = (schedule key).reverse.toList := by
  rw [Vector.toList_reverse, ← reverseSchedule_eq_reverse]
  rfl

/-- `ENC` runs `encrypt` (43_cipher R207). -/
theorem Work.result_start_enc (b : Block) (key : Key) : (Work.start 0#1 b key).complete.result = encrypt b key := by
  rw [Work.result_complete, Work.keysAhead_start_enc]
  rfl

/-- `DEC` runs `decrypt` (43_cipher R208). -/
theorem Work.result_start_dec (b : Block) (key : Key) : (Work.start 1#1 b key).complete.result = decrypt b key := by
  rw [Work.result_complete, Work.keysAhead_start_dec]
  rfl

/-- With no key loaded a block command answers `E_NOKEY`. -/
theorem State.blockCommand_nokey {s : State} (h : s.keyv = false) (dir : BitVec 1) (b : Block) :
    s.blockCommand dir b = s.respond .eNokey := by
  simp [State.blockCommand, h]

/-- With a key loaded `ENC` answers the ciphertext under it. -/
theorem State.blockCommand_enc {s : State} (h : s.keyv = true) (b : Block) :
    s.blockCommand 0#1 b = s.respond (.ok (encrypt b s.keyBits)) := by
  rw [State.blockCommand, if_pos h, State.completeBlock_startBlock, Work.result_start_enc]

/-- With a key loaded `DEC` answers the plaintext under it. -/
theorem State.blockCommand_dec {s : State} (h : s.keyv = true) (b : Block) :
    s.blockCommand 1#1 b = s.respond (.ok (decrypt b s.keyBits)) := by
  rw [State.blockCommand, if_pos h, State.completeBlock_startBlock, Work.result_start_dec]

/-! ### The stored copy -/

/-- A key load leaves the schedule of the loaded key as the RoundKeySet. -/
theorem State.roundKeySet_loadKey (s : State) (k : Key) : (s.loadKey k).roundKeySet = schedule k := by
  rw [State.roundKeySet, State.keyBits_some (State.loadKey_key s k)]

/-- An answer keeps the RoundKeySet of a loaded key. -/
theorem State.roundKeySet_respond {s : State} (hheld : s.KeyHeld) (hv : s.keyv = true) (r : Response) :
    (s.respond r).roundKeySet = s.roundKeySet := by
  obtain ⟨k, hk⟩ := Option.isSome_iff_exists.mp (hheld ▸ hv)
  rw [State.roundKeySet, State.roundKeySet, State.keyBits_some hk, State.keyBits_some (s := s.respond r) hk]

/-- Under a loaded key a block command reads `schedule(KEY)` from a coherent store. -/
theorem Cached.Coherent.roundKeys_eq {c : Cached} (hc : c.Coherent) (hv : c.core.keyv = true) :
    c.roundKeys = schedule c.core.keyBits := by
  rw [Cached.roundKeys, hc hv, Option.getD_some, State.roundKeySet]

/-- An answer that leaves the store as it is keeps it coherent. -/
theorem Cached.Coherent.respond {c c' : Cached} (hc : c.Coherent) (hheld : c.core.KeyHeld) {r : Response}
    (hcore : c'.core = c.core.respond r) (hstore : c'.store = c.store) : c'.Coherent := by
  intro hv
  rw [hcore] at hv ⊢
  rw [hstore, hc hv, State.roundKeySet_respond hheld hv]

/-- A block command over the store answers without writing the store. -/
theorem Cached.blockCommand_eq (b : Block) (ks : RoundKeySet) (c : Cached) :
    c.blockCommand b ks =
      { c with core := c.core.respond (if c.core.keyv then .ok (crypt b ks) else .eNokey) } := by
  unfold Cached.blockCommand
  cases c.core.keyv <;> simp

/-- From a coherent store the core of every command is that of the engine that makes the subkeys anew. -/
theorem Cached.Coherent.exec_core {c : Cached} (hc : c.Coherent) (i : Instr) :
    Machine.exec i c.core = .next (c.exec i).core := by
  cases i with
  | enc b =>
    rw [Machine.exec, execEnc, Cached.exec, Cached.blockCommand_eq]
    cases hv : c.core.keyv with
    | false => simp [State.blockCommand_nokey hv]
    | true => simp [State.blockCommand_enc hv, hc.roundKeys_eq hv, encrypt]
  | dec b =>
    rw [Machine.exec, execDec, Cached.exec, Cached.blockCommand_eq]
    cases hv : c.core.keyv with
    | false => simp [State.blockCommand_nokey hv]
    | true => simp [State.blockCommand_dec hv, hc.roundKeys_eq hv, decrypt]
  | ldkey k => rfl
  | reserved3 d => rfl

/-- Every command leaves a coherent store coherent: only `LDKEY` writes it, together with `KEY`. -/
theorem Cached.Coherent.exec {c : Cached} (hc : c.Coherent) (hheld : c.core.KeyHeld) (i : Instr) :
    (c.exec i).Coherent := by
  cases i with
  | enc b => exact hc.respond hheld (congrArg Cached.core (Cached.blockCommand_eq b _ c)) rfl
  | dec b => exact hc.respond hheld (congrArg Cached.core (Cached.blockCommand_eq b _ c)) rfl
  | ldkey k => exact fun _ => congrArg some (State.roundKeySet_loadKey c.core k).symm
  | reserved3 d => exact hc.respond hheld (State.respondError_eq c.core .eIllop) rfl

/-- After reset no key is valid, so the empty store is coherent. -/
theorem Cached.coherent_assertReset (c : Cached) : c.assertReset.Coherent :=
  fun hv => absurd hv (by simp [Cached.assertReset])

end Sys2Proof.Machine

namespace Sys2Proof.Proofs

open Sys2Proof.Machine

/-- Settles O59: the sequencer's rounds are the block function over `schedule(KEY)`, which a coherent store holds, and
every command keeps it coherent. -/
theorem storedSubkeysCannotBeObserved : Obligations.StoredSubkeysCannotBeObserved :=
  ⟨fun i _ hheld hc => ⟨hc.exec_core i, hc.exec hheld i⟩, Cached.coherent_assertReset⟩

end Sys2Proof.Proofs
end

section
/-! PROOF. A command stream is answered in order as the reference says (20_memory R80, 10_state R22), and between key
loads the response to a command depends on the command alone (R81). -/

namespace Sys2Proof.Machine

/-! ### One command -/

/-- Decoding the word of a command gives the command back (30_encoding R100, R102). -/
@[simp] theorem decode_encode (i : Instr) : decode (encode i) = i := by
  obtain ⟨hop, hdata⟩ := Laws.EncodeFields.fields i
  rw [decode, hop, hdata]
  cases i <;> simp [Instr.op, Instr.data]

/-- The state with the key register set to `key`, which may be no value, and `KEYV` saying which. -/
def State.holdKey (key : Option Key) (s : State) : State := { s with key := key, keyv := key.isSome }

@[simp] theorem State.holdKey_key (key : Option Key) (s : State) : (s.holdKey key).key = key := rfl
@[simp] theorem State.holdKey_keyv (key : Option Key) (s : State) : (s.holdKey key).keyv = key.isSome := rfl
@[simp] theorem State.holdKey_cmds (key : Option Key) (s : State) : (s.holdKey key).cmds = s.cmds := rfl
@[simp] theorem State.holdKey_rsps (key : Option Key) (s : State) : (s.holdKey key).rsps = s.rsps := rfl

theorem State.holdKey_some (k : Key) (s : State) : s.holdKey (some k) = (s.writeKey k).setKeyv := rfl

theorem State.holdKey_self {s : State} (hheld : s.KeyHeld) : s.holdKey s.key = s := by
  rw [State.holdKey, ← hheld]

/-- A block command's effect is the reference's: the response under the key held, or `E_NOKEY` (43_cipher R207,
R208). -/
theorem State.blockCommand_answer {s : State} (hheld : s.KeyHeld) (b : Block) :
    s.blockCommand 0#1 b = s.respond (answer s.key (.enc b)) ∧
      s.blockCommand 1#1 b = s.respond (answer s.key (.dec b)) := by
  cases hk : s.key with
  | none =>
    have hv : s.keyv = false := by rw [hheld, hk]; rfl
    exact ⟨State.blockCommand_nokey hv _ b, State.blockCommand_nokey hv _ b⟩
  | some k =>
    have hv : s.keyv = true := by rw [hheld, hk]; rfl
    rw [State.blockCommand_enc hv, State.blockCommand_dec hv, State.keyBits_some hk]
    exact ⟨rfl, rfl⟩

/-- Every command word sets the key register as the reference says and queues the reference's response. -/
theorem exec_decode {s : State} (hheld : s.KeyHeld) (w : CmdWord) :
    exec (decode w) s =
      .next ((s.holdKey (keyAfter s.key (.command w))).respond (answer s.key (decode w))) := by
  cases hi : decode w with
  | enc b => simp [keyAfter, hi, State.holdKey_self hheld, exec, execEnc, (State.blockCommand_answer hheld b).1]
  | dec b => simp [keyAfter, hi, State.holdKey_self hheld, exec, execDec, (State.blockCommand_answer hheld b).2]
  | ldkey k => simp [keyAfter, hi, State.holdKey_some, exec, execLdkey, State.loadKey, answer]
  | reserved3 d => simp [keyAfter, hi, State.holdKey_self hheld, exec, execReserved3, answer]

/-- An engine at rest runs the one word it is offered. -/
theorem State.AtRest.step_offer {s : State} (hrest : s.AtRest) (w : CmdWord) :
    step (s.offer w) = exec (decode w) s := by
  obtain ⟨hbusy, hcmds, hrsps⟩ := hrest
  have haccept : (s.offer w).accept = some (w, s) :=
    State.accept_eq_some.mpr ⟨hbusy, by simp [State.hasRoom, hrsps], by simp [hcmds], rfl⟩
  simp [step, hbusy, haccept]

/-! ### A stream of events -/

theorem streamAnswers_cons (key : Option Key) (e : HostEvent) (rest : List HostEvent) :
    streamAnswers key (e :: rest) = streamAnswers key [e] ++ streamAnswers (keyAfter key e) rest := by
  cases e <;> rfl

/-- One event, played at rest, gives the reference's responses and leaves the engine at rest with the reference's
key. -/
theorem State.AtRest.playEvent_answers {s : State} (hrest : s.AtRest) (hheld : s.KeyHeld) (e : HostEvent) :
    ∃ t, playEvent e s = some (streamAnswers s.key [e], t) ∧
      t.key = keyAfter s.key e ∧ t.KeyHeld ∧ t.AtRest := by
  cases e with
  | command w =>
    have hstep := hrest.step_offer w
    obtain ⟨-, hcmds, hrsps⟩ := hrest
    refine ⟨{ (s.holdKey (keyAfter s.key (.command w))).respond (answer s.key (decode w)) with rsps := [] }, ?_, rfl,
      rfl, rfl, hcmds, rfl⟩
    rw [playEvent, hstep, exec_decode hheld]
    simp [hrsps, streamAnswers]
  | reset => exact ⟨s.assertReset, rfl, rfl, rfl, rfl, rfl, rfl⟩

/-- A stream of events, played at rest, likewise: by induction on the stream, every event leaving the engine at rest
with `KeyHeld`. -/
theorem State.AtRest.playEvents_answers {s : State} (hrest : s.AtRest) (hheld : s.KeyHeld) (events : List HostEvent) :
    ∃ t, playEvents events s = some (streamAnswers s.key events, t) ∧
      t.key = events.foldl keyAfter s.key ∧ t.KeyHeld ∧ t.AtRest := by
  induction events generalizing s with
  | nil => exact ⟨s, rfl, rfl, hheld, hrest⟩
  | cons e rest ih =>
    obtain ⟨t, hplay, hkey, htheld, htrest⟩ := hrest.playEvent_answers hheld e
    obtain ⟨u, hplays, hukey, hu⟩ := ih htrest htheld
    refine ⟨u, ?_, by rw [hukey, hkey, List.foldl_cons], hu⟩
    rw [streamAnswers_cons, ← hkey]
    simp only [playEvents, hplay, hplays]

/-! ### Streams without a key load -/

/-- Only `LDKEY` changes what `KEY` holds (43_cipher R210, 60_exceptions R245). -/
theorem keyAfter_encode {i : Instr} (hi : ∀ k, i ≠ .ldkey k) (key : Option Key) :
    keyAfter key (.command (encode i)) = key := by
  cases i with
  | enc b => simp [keyAfter]
  | dec b => simp [keyAfter]
  | ldkey k => exact absurd rfl (hi k)
  | reserved3 d => simp [keyAfter]

/-- Without a key load every command of a stream is answered under the one key, which stays. -/
theorem streamAnswers_commandStream {is : List Instr} (his : ∀ i ∈ is, ∀ k, i ≠ .ldkey k) (key : Option Key) :
    streamAnswers key (commandStream is) = is.map (answer key) ∧ (commandStream is).foldl keyAfter key = key := by
  induction is with
  | nil => exact ⟨rfl, rfl⟩
  | cons i is ih =>
    obtain ⟨hi, his⟩ := List.forall_mem_cons.mp his
    obtain ⟨hans, hkey⟩ := ih his
    rw [commandStream, List.map_cons, streamAnswers, List.foldl_cons, keyAfter_encode hi, decode_encode,
      List.map_cons]
    exact ⟨congrArg _ hans, hkey⟩

end Sys2Proof.Machine

namespace Sys2Proof.Proofs

open Sys2Proof.Machine

/-- Settles O40, by induction on the stream: every event leaves the engine at rest with the reference's key, and
`KeyHeld` says what `KEYV` then is. -/
theorem streamIsAnsweredInOrder : Obligations.StreamIsAnsweredInOrder := by
  intro s events hrest hheld
  obtain ⟨t, hplay, hkey, htheld, htrest⟩ := hrest.playEvents_answers hheld events
  exact ⟨t, hplay, hkey, hkey ▸ htheld, htrest⟩

/-- Settles O38: the response to a command is the reference's answer under the key held at the start. -/
theorem blockCommandsCommute : Obligations.BlockCommandsCommute := by
  intro s hrest hheld
  refine ⟨answer s.key, fun is his => ?_⟩
  obtain ⟨t, hplay, hkey, htheld, -⟩ := hrest.playEvents_answers hheld (commandStream is)
  obtain ⟨hanswers, hkeep⟩ := streamAnswers_commandStream his s.key
  have htkey : t.key = s.key := hkey.trans hkeep
  have htkeyv : t.keyv = s.keyv := by rw [htheld, hheld, htkey]
  exact ⟨t, hanswers ▸ hplay, Prod.ext htkey htkeyv⟩

end Sys2Proof.Proofs
end

section
/-! PROOF. The byte order of a host's word (20_memory R73). -/

namespace Sys2Proof.Machine

/-- Bit `m` of byte `k` is bit `56 - 8k + m` of the word. -/
theorem getLsbD_byteOfWord (x : BitVec 64) (k : Fin 8) {m : Nat} (hm : m < 8) :
    (byteOfWord x k).getLsbD m = x.getLsbD (56 - 8 * k + m) := by
  rw [byteOfWord, BitVec.getLsbD_extractLsb']
  simp [hm]

/-- A word is determined by its eight bytes. -/
theorem eq_of_byteOfWord_eq {x y : BitVec 64} (h : ∀ k, byteOfWord x k = byteOfWord y k) : x = y := by
  refine BitVec.eq_of_getLsbD_eq fun i hi => ?_
  have hm : i % 8 < 8 := Nat.mod_lt _ (by omega)
  have hbit := congrArg (·.getLsbD (i % 8)) (h ⟨7 - i / 8, by omega⟩)
  simp only [getLsbD_byteOfWord _ _ hm] at hbit
  rwa [show 56 - 8 * (7 - i / 8) + i % 8 = i by omega] at hbit

/-- Byte `i` of a packed word is the byte packed: the `7 - i` bytes after it are the ones shifted past. -/
theorem byteOfWord_packBytes (b : Vector (BitVec 8) 8) (i : Fin 8) : byteOfWord (packBytes b) i = b[i] := by
  refine BitVec.eq_of_getLsbD_eq fun m hm => ?_
  rw [getLsbD_byteOfWord _ _ hm, packBytes]
  simp only [BitVec.getLsbD_append]
  fin_cases i <;> simp (disch := omega) only [if_pos, if_neg, Nat.sub_sub, Nat.reduceAdd, Nat.reduceMul,
    Nat.reduceSub, Nat.add_sub_cancel_left, Nat.zero_add] <;> rfl

theorem packBytes_byteOfWord (x : BitVec 64) : packBytes (Vector.ofFn (byteOfWord x)) = x :=
  eq_of_byteOfWord_eq fun k => by simp [byteOfWord_packBytes]

/-- FIPS bits `8k + 1` to `8k + 8` are the bits of byte `k`, its most significant first. -/
theorem fipsBit_eq_getLsbD_byteOfWord (x : BitVec 64) (k : Fin 8) {m : Nat} (hm : m < 8) :
    fipsBit x (8 * k + 1 + m) = (byteOfWord x k).getLsbD (7 - m) := by
  rw [getLsbD_byteOfWord _ _ (by omega), fipsBit]
  congr 1
  omega

end Sys2Proof.Machine

namespace Sys2Proof.Proofs

open Sys2Proof.Machine

/-- Settles O6: the bytes of a packed word are the bytes packed, and a word is determined by its bytes. -/
theorem packedBytesAreBigEndian : Obligations.PackedBytesAreBigEndian :=
  ⟨byteOfWord_packBytes, packBytes_byteOfWord, fun x k _ hm => fipsBit_eq_getLsbD_byteOfWord x k hm⟩

end Sys2Proof.Proofs
end

section
/-! PROOF. The linear map of the table ROM (20_memory R69): the fifteen tables tile the addresses 0 to 839. -/

namespace Sys2Proof.Machine

/-- Address `a` lies in the part of the ROM that the map gives table `T`. -/
def Table.Covers (T : Table) (a : Nat) : Prop := T.base ≤ a ∧ a < T.base + T.size

theorem Table.mem_all (T : Table) : T ∈ Table.all := by
  cases T with
  | s j => revert j; decide
  | _ => decide

theorem Table.length_contents (T : Table) : T.contents.length = T.size := by
  cases T with
  | s j => exact SBox.entries_length (sboxOf j)
  | _ => rfl

theorem Table.ofTsel_tsel (T : Table) : Table.ofTsel T.tsel = some T := by
  cases T with
  | s j => revert j; decide
  | _ => rfl

theorem Table.tsel_lt (T : Table) : T.tsel < 16 := by
  cases T with
  | s j => simp only [Table.tsel]; omega
  | _ => decide

theorem Table.end_le (T : Table) : T.base + T.size ≤ 840 := by
  cases T with
  | s j => simp only [Table.base, Table.size]; omega
  | _ => decide

/-- Every address below 840 lies in a table: each table of the map ends where the next begins. -/
theorem Table.exists_covers {a : Nat} (ha : a < 840) : ∃ T : Table, T.Covers a := by
  by_contra hnone
  have hpast : ∀ T : Table, T.base ≤ a → T.base + T.size ≤ a :=
    fun T hbase => Nat.le_of_not_lt fun hlt => hnone ⟨T, hbase, hlt⟩
  have htiles : 840 ≤ a :=
    hpast (.s 7) <| hpast (.s 6) <| hpast (.s 5) <| hpast (.s 4) <| hpast (.s 3) <| hpast (.s 2) <|
      hpast (.s 1) <| hpast (.s 0) <| hpast .shifts <| hpast .pc2 <| hpast .pc1 <| hpast .p <| hpast .e <|
      hpast .fp <| hpast .ip <| Nat.zero_le a
  omega

/-- Two tables of the map do not overlap: one ends before the other begins. -/
theorem Table.apart {T U : Table} (hne : T ≠ U) : T.base + T.size ≤ U.base ∨ U.base + U.size ≤ T.base := by
  have hall : ∀ T ∈ Table.all, ∀ U ∈ Table.all, T ≠ U →
      T.base + T.size ≤ U.base ∨ U.base + U.size ≤ T.base := by decide
  exact hall T T.mem_all U U.mem_all hne

/-- No address lies in two tables. -/
theorem Table.Covers.unique {T U : Table} {a : Nat} (hT : T.Covers a) (hU : U.Covers a) : T = U := by
  by_contra hne
  obtain ⟨hTbase, hTend⟩ := hT
  obtain ⟨hUbase, hUend⟩ := hU
  have hapart := Table.apart hne
  omega

/-- The ROM at an address: the entry of the table the address lies in, or nothing where it lies in none. -/
theorem romLinear_cases (a : Nat) :
    (∃ T : Table, T.Covers a ∧ romLinear a = rom T (a - T.base)) ∨
      ((∀ T : Table, ¬ T.Covers a) ∧ romLinear a = none) := by
  unfold romLinear
  split
  · next T hT =>
    have hcov := List.find?_some hT
    exact .inl ⟨T, by simpa [Table.Covers] using hcov, rfl⟩
  · next hnone =>
    have hmiss := List.find?_eq_none.mp hnone
    exact .inr ⟨fun T => by simpa [Table.Covers] using hmiss T T.mem_all, rfl⟩

/-- An address in a table reads that table's entry. -/
theorem Table.Covers.romLinear_eq {T : Table} {a : Nat} (hT : T.Covers a) : romLinear a = rom T (a - T.base) := by
  obtain ⟨U, hU, hread⟩ | ⟨hnone, -⟩ := romLinear_cases a
  · rw [hread, hU.unique hT]
  · exact absurd hT (hnone T)

/-- No table reaches address 840. -/
theorem romLinear_eq_none {a : Nat} (ha : 840 ≤ a) : romLinear a = none := by
  obtain ⟨T, ⟨-, hend⟩, -⟩ | ⟨-, hnone⟩ := romLinear_cases a
  · exact absurd (hend.trans_le T.end_le) (Nat.not_lt.mpr ha)
  · exact hnone

theorem rom_isSome {T : Table} {i : Nat} (hi : i < T.size) : (rom T i).isSome = true := by
  simp [rom, T.length_contents, hi]

/-- The ROM holds an entry at exactly the addresses below 840. -/
theorem romLinear_isSome_iff (a : Nat) : (romLinear a).isSome = true ↔ a < 840 := by
  constructor
  · intro hsome
    by_contra hge
    simp [romLinear_eq_none (Nat.le_of_not_lt hge)] at hsome
  · intro ha
    obtain ⟨T, hT⟩ := Table.exists_covers ha
    rw [hT.romLinear_eq]
    obtain ⟨hbase, hend⟩ := hT
    exact rom_isSome (by omega)

theorem romLinear_base_add {T : Table} {i : Nat} (hi : i < T.size) : romLinear (T.base + i) = rom T i := by
  have hcov : T.Covers (T.base + i) := ⟨Nat.le_add_right _ _, Nat.add_lt_add_left hi _⟩
  rw [hcov.romLinear_eq, Nat.add_sub_cancel_left]

theorem Table.ofTsel_eq_none {id : Nat} (hid : 16 ≤ id) : Table.ofTsel id = none := by
  refine List.find?_eq_none.mpr fun T _ => ?_
  have hlt := T.tsel_lt
  rw [beq_iff_eq]
  omega

end Sys2Proof.Machine

namespace Sys2Proof.Proofs

open Sys2Proof.Machine

/-- Settles O9: the tables tile the addresses 0 to 839 in the order of the map. -/
theorem romMapPlacesEveryTable : Obligations.RomMapPlacesEveryTable :=
  ⟨fun T => ⟨T.length_contents, T.ofTsel_tsel⟩, fun _ _ hi => ⟨romLinear_base_add hi, rom_isSome hi⟩,
    romLinear_isSome_iff, by decide, fun _ hid => Table.ofTsel_eq_none hid⟩

end Sys2Proof.Proofs
end

section
/-! PROOF. The opcode map (30_encoding R102) and the error response of its reserved row (R104, 60_exceptions R245). -/

namespace Sys2Proof.Machine

/-! ### The row of a word -/

/-- The command a word decodes to is of the row the word's `op` field names. -/
@[simp] theorem op_decode (w : CmdWord) : (decode w).op = cmdWordOp w := by
  have hcases : ∀ op : BitVec 2, op = 0b00#2 ∨ op = 0b01#2 ∨ op = 0b10#2 ∨ op = 0b11#2 := by decide
  obtain h | h | h | h := hcases (cmdWordOp w) <;> simp [decode, h, Instr.op]

/-- The operand of the command a word decodes to is the word's `data` field, whatever the row. -/
@[simp] theorem data_decode (w : CmdWord) : (decode w).data = cmdWordData w := by
  unfold decode
  split_ifs <;> rfl

/-- A word decodes to the one command that has its two fields. -/
theorem decode_eq_iff_fields {w : CmdWord} {i : Instr} :
    decode w = i ↔ cmdWordOp w = i.op ∧ cmdWordData w = i.data := by
  constructor
  · rintro rfl
    exact ⟨(op_decode w).symm, (data_decode w).symm⟩
  · rintro ⟨hop, hdata⟩
    rw [← Laws.cmdWord_split w, hop, hdata]
    exact decode_encode i

/-- The mask of the opcode map keeps the `op` field and clears the `data` field. -/
theorem and_opcodeMask (w : CmdWord) : w &&& opcodeMask = cmdWordOp w ++ 0#64 := by
  have hmask : opcodeMask = 0b11#2 ++ 0#64 := rfl
  calc w &&& opcodeMask = (cmdWordOp w ++ cmdWordData w) &&& (0b11#2 ++ 0#64) := by
        rw [Laws.cmdWord_split, hmask]
    _ = (cmdWordOp w &&& BitVec.allOnes 2) ++ (cmdWordData w &&& 0#64) := BitVec.and_append
    _ = cmdWordOp w ++ 0#64 := by rw [BitVec.and_allOnes, BitVec.and_zero]

theorem opcodeMatch_eq_op_append (i : Instr) : i.opcodeMatch = i.op ++ 0#64 := by
  cases i <;> simp only [Instr.opcodeMatch, Instr.op] <;> decide

/-- The rule `(w and mask) = match` compares the `op` fields. -/
theorem and_opcodeMask_eq_opcodeMatch {w : CmdWord} {i : Instr} :
    w &&& opcodeMask = i.opcodeMatch ↔ cmdWordOp w = i.op := by
  rw [and_opcodeMask, opcodeMatch_eq_op_append]
  refine ⟨fun h => ?_, fun h => by rw [h]⟩
  simpa only [BitVec.extractLsb'_append_eq_left] using congrArg (BitVec.extractLsb' 64 2) h

theorem decode_eq_iff_match {w : CmdWord} {i : Instr} :
    decode w = i ↔ w &&& opcodeMask = i.opcodeMatch ∧ cmdWordData w = i.data := by
  rw [and_opcodeMask_eq_opcodeMatch, decode_eq_iff_fields]

theorem and_opcodeMask_decode (w : CmdWord) : w &&& opcodeMask = (decode w).opcodeMatch :=
  (decode_eq_iff_match.mp rfl).1

/-! ### The two bits of `op` -/

/-- Bit `op[1]` is bit 65 of the word (30_encoding R100). -/
theorem cmdWordIsKey_eq (w : CmdWord) : cmdWordIsKey w = (cmdWordOp w).getLsbD 1 := by
  simp [cmdWordIsKey, cmdWordOp]

/-- Bit `op[0]` is bit 64 of the word (30_encoding R100). -/
theorem cmdWordDir_eq (w : CmdWord) : cmdWordDir w = (cmdWordOp w).extractLsb' 0 1 := by
  refine BitVec.eq_of_getLsbD_eq fun i hi => ?_
  obtain rfl : i = 0 := by omega
  simp [cmdWordDir, cmdWordOp]

/-- A word whose operand is no key is a block command, and `op[0]` says which. -/
theorem decode_of_not_isKey {w : CmdWord} (hkey : cmdWordIsKey w = false) :
    ∃ b, decode w = if cmdWordDir w = 0#1 then .enc b else .dec b := by
  rw [cmdWordIsKey_eq, ← op_decode] at hkey
  rw [cmdWordDir_eq, ← op_decode]
  cases hi : decode w with
  | enc b => exact ⟨b, rfl⟩
  | dec b => exact ⟨b, rfl⟩
  | ldkey k => simp [hi, Instr.op] at hkey
  | reserved3 d => simp [hi, Instr.op] at hkey

/-! ### The reserved row -/

/-- The reserved opcode answers `E_ILLOP` from every state. -/
theorem exec_reserved3 (d : BitVec 64) (s : State) : exec (.reserved3 d) s = .next (s.respond .eIllop) := by
  rw [exec, execReserved3, State.respondError_eq]

/-- Under `KeyHeld` the architectural effect of a command and its response are functions of what `KEY` holds. -/
theorem exec_arch_rsps {s : State} (hheld : s.KeyHeld) (i : Instr) :
    ∃ t, exec i s = .next t ∧ t.rsps = s.rsps ++ [answer s.key i] ∧
      t.arch = (keyAfter s.key (.command (encode i)), (keyAfter s.key (.command (encode i))).isSome) :=
  ⟨_, decode_encode i ▸ exec_decode hheld (encode i), by simp, rfl⟩

/-- A block command never answers `E_ILLOP`. -/
theorem State.blockCommand_rsps_ne_eIllop (s : State) (dir : BitVec 1) (b : Block) :
    (s.blockCommand dir b).rsps ≠ s.rsps ++ [.eIllop] := by
  obtain ⟨-, h⟩ | ⟨-, h⟩ := s.blockCommand_cases dir b
  · simp [h]
  · simp [h]

/-- `E_ILLOP` is the answer to the reserved row and to no other. -/
theorem exec_rsps_eq_eIllop_iff {i : Instr} {s t : State} (h : exec i s = .next t) :
    t.rsps = s.rsps ++ [.eIllop] ↔ i.op = 0b11#2 := by
  cases i with
  | enc b =>
    obtain rfl : s.blockCommand 0#1 b = t := Host.Outcome.next.inj h
    exact iff_of_false (s.blockCommand_rsps_ne_eIllop _ b) (by simp [Instr.op])
  | dec b =>
    obtain rfl : s.blockCommand 1#1 b = t := Host.Outcome.next.inj h
    exact iff_of_false (s.blockCommand_rsps_ne_eIllop _ b) (by simp [Instr.op])
  | ldkey k =>
    obtain rfl : s.loadKey k = t := Host.Outcome.next.inj h
    exact iff_of_false (by simp) (by simp [Instr.op])
  | reserved3 d =>
    obtain rfl : s.respond .eIllop = t := Host.Outcome.next.inj (exec_reserved3 d s ▸ h)
    exact iff_of_true rfl rfl

end Sys2Proof.Machine

namespace Sys2Proof.Proofs

open Sys2Proof.Machine

/-- Settles O3: the mask keeps the `op` field, each match is a row's `op` field, and a word decodes to the command that
has its two fields. -/
theorem opcodeMapSelectsTheCommand : Obligations.OpcodeMapSelectsTheCommand := by
  refine ⟨fun w i => decode_eq_iff_match, fun w => ?_, fun w => ⟨rfl, ?_⟩, fun w => decode_of_not_isKey⟩
  · have hrow := and_opcodeMask_decode w
    generalize decode w = i at hrow ⊢
    cases i with
    | enc b => exact ⟨b, .inl ⟨hrow, rfl⟩⟩
    | dec b => exact ⟨b, .inr (.inl ⟨hrow, rfl⟩)⟩
    | ldkey k => exact ⟨k, .inr (.inr (.inl ⟨hrow, rfl⟩))⟩
    | reserved3 d => exact ⟨d, .inr (.inr (.inr ⟨hrow, rfl⟩))⟩
  · rw [← op_decode]
    cases decode w <;> simp [Instr.op]

/-- Settles O34: the reserved opcode's next state differs from the one before it in nothing the next command reads, so
that command answers as it would have. -/
theorem reservedOpcodeAnswersIllop : Obligations.ReservedOpcodeAnswersIllop := by
  refine ⟨fun s d d' => ⟨exec_reserved3 d s, rfl⟩, fun s t d h => ?_, fun i s t => exec_rsps_eq_eIllop_iff, rfl,
    by decide⟩
  obtain rfl : s.respond .eIllop = t := Host.Outcome.next.inj (exec_reserved3 d s ▸ h)
  refine ⟨rfl, rfl, rfl, fun hheld i => ?_⟩
  obtain ⟨u, hu, hursps, huarch⟩ := exec_arch_rsps hheld i
  obtain ⟨v, hv, hvrsps, hvarch⟩ := exec_arch_rsps (s := s.respond .eIllop) hheld i
  exact ⟨u, v, answer s.key i, hu, hv, huarch.trans hvarch.symm, hursps, hvrsps⟩

end Sys2Proof.Proofs
end

section
/-! PROOF. The pseudo-instructions that load a key first (30_encoding R110): after the `LDKEY`, `KeyHeld` holds
whatever held before, so the rest of the stream is answered as the reference says. -/

namespace Sys2Proof.Machine

/-- A key load played at rest answers `OK(0)` and leaves the key loaded; `KEY` and `KEYV` before it do not matter. -/
theorem State.AtRest.playEvent_ldkey {s : State} (hrest : s.AtRest) (k : Key) :
    ∃ t, playEvent (.command (encode (.ldkey k))) s = some ([.ok 0#64], t) ∧
      t.key = some k ∧ t.KeyHeld ∧ t.AtRest := by
  have hstep := hrest.step_offer (encode (.ldkey k))
  obtain ⟨-, hcmds, hrsps⟩ := hrest
  refine ⟨{ s.loadKey k with rsps := [] }, ?_, rfl, rfl, rfl, hcmds, rfl⟩
  rw [playEvent, hstep, decode_encode]
  simp [exec, execLdkey, hrsps]

/-- A stream that begins with a key load is answered under the loaded key, from every state at rest. -/
theorem State.AtRest.playEvents_ldkey_cons {s : State} (hrest : s.AtRest) (k : Key) (rest : List HostEvent) :
    ∃ t, playEvents (.command (encode (.ldkey k)) :: rest) s = some (.ok 0#64 :: streamAnswers (some k) rest, t) ∧
      t.key = rest.foldl keyAfter (some k) := by
  obtain ⟨t, hplay, hkey, htheld, htrest⟩ := hrest.playEvent_ldkey k
  obtain ⟨u, hplays, hukey, -⟩ := htrest.playEvents_answers htheld rest
  rw [hkey] at hplays hukey
  exact ⟨u, by simp only [playEvents, hplay, hplays, List.singleton_append], hukey⟩

/-- The expansion of `ENCK` and `DECK`: a key load, then one command that loads none. -/
theorem State.AtRest.playEvents_ldkey_command {s : State} (hrest : s.AtRest) (k : Key) {i : Instr}
    (hi : ∀ k', i ≠ .ldkey k') :
    ∃ t, playEvents [.command (encode (.ldkey k)), .command (encode i)] s =
        some ([.ok 0#64, answer (some k) i], t) ∧ t.key = some k := by
  obtain ⟨hanswers, hkeep⟩ := streamAnswers_commandStream (is := [i]) (by simpa using hi) (some k)
  obtain ⟨t, hplay, hkey⟩ := hrest.playEvents_ldkey_cons k (commandStream [i])
  rw [hanswers] at hplay
  exact ⟨t, hplay, hkey.trans hkeep⟩

end Sys2Proof.Machine

namespace Sys2Proof.Proofs

open Sys2Proof.Machine

/-- Settles O7: the other names have the same events, and after the key load of `ENCK` or `DECK` the block command is
answered under the loaded key. -/
theorem pseudoInstructionsExpand : Obligations.PseudoInstructionsExpand := by
  refine ⟨fun b => ⟨rfl, rfl⟩, fun k => rfl, fun s k b hbusy hcmds hrsps => ?_⟩
  have hrest : s.AtRest := ⟨hbusy, hcmds, hrsps⟩
  exact ⟨hrest.playEvents_ldkey_command k (i := .enc b) (by simp),
    hrest.playEvents_ldkey_command k (i := .dec b) (by simp)⟩

end Sys2Proof.Proofs
end

section
/-! PROOF. The bit formula of the permutation unit (40_permute R130), counted from the table's front. -/

namespace Sys2Proof.Machine

/-- Entry `i` of the table makes the output bit `i` places below the most significant one. -/
theorem getLsbD_permute_of_entry {N M : Nat} (T : PermTable N M) (x : BitVec N) {i : Nat} (hi : i < M) :
    (permute T x).getLsbD (M - 1 - i) = x.getLsbD (N - T.entries.getD i 0) := by
  have hpos : M - 1 - i < M := by omega
  have hback : M - 1 - (M - 1 - i) = i := by omega
  rw [getLsbD_permute T x hpos, hback]

end Sys2Proof.Machine

namespace Sys2Proof.Proofs

open Sys2Proof.Machine

/-- Settles O11: the bit formula counted from the table's front, and the worked example by evaluation. -/
theorem permuteCopiesTheNamedBits : Obligations.PermuteCopiesTheNamedBits :=
  ⟨fun _ _ T x _ hi => getLsbD_permute_of_entry T x hi, by decide⟩

end Sys2Proof.Proofs
end

section
/-! PROOF. Rotation inside the 28-bit field (41_key_schedule R153), read bit by bit. -/

namespace Sys2Proof.Machine

/-- Bit `i` of a half moves `n` places up, counted modulo 28 (41_key_schedule R153). -/
theorem getLsbD_rotl28_add_mod (v : KeyHalf) (n : Nat) {i : Nat} (hi : i < 28) :
    (rotl28 v n).getLsbD ((i + n) % 28) = v.getLsbD i := by
  have hback : ((i + n) % 28 + (28 - n % 28)) % 28 = i := by omega
  rw [getLsbD_rotl28 v n (Nat.mod_lt _ (by omega)), hback]

/-- A half whose bits are all equal is its own rotation by every amount. -/
theorem rotl28_of_bits_eq {v : KeyHalf} {b : Bool} (h : ∀ i < 28, v.getLsbD i = b) (n : Nat) : rotl28 v n = v := by
  refine BitVec.eq_of_getLsbD_eq fun i hi => ?_
  rw [getLsbD_rotl28 v n hi, h _ (Nat.mod_lt _ (by omega)), h i hi]

end Sys2Proof.Machine

namespace Sys2Proof.Proofs

open Sys2Proof.Machine

/-- Settles O14: every bit moves `n` places up modulo 28, so whole turns and halves with equal bits change nothing; the
worked examples by evaluation. -/
theorem rotationStaysInTwentyEightBits : Obligations.RotationStaysInTwentyEightBits :=
  ⟨fun v n _ hi => getLsbD_rotl28_add_mod v n hi,
    fun v => ⟨rotl28_of_mod_eq_zero v rfl, rotl28_of_mod_eq_zero v rfl⟩,
    fun n => ⟨rotl28_of_bits_eq (b := false) (by decide) n, rotl28_of_bits_eq (b := true) (by decide) n⟩,
    by decide, by decide, by decide⟩

end Sys2Proof.Proofs
end

section
/-! PROOF. The sixteen iterations of the key schedule (41_key_schedule R150 to R158): the halves after `n` iterations
are `C₀` and `D₀` rotated by the sum of the first `n` amounts (R160). -/

namespace Sys2Proof.Machine

/-! ### The halves -/

/-- The halves of a key, `C₀` first, are the compressed key (41_key_schedule R151, R152). -/
theorem keyC0_append_keyD0 (key : Key) : keyC0 key ++ keyD0 key = pc1 key := hi28_append_lo28 (pc1 key)

theorem getLsbD_keyC0 (key : Key) {i : Nat} (hi : i < 28) : (keyC0 key).getLsbD i = (pc1 key).getLsbD (28 + i) := by
  simp [keyC0, hi28, hi]

theorem getLsbD_keyD0 (key : Key) {i : Nat} (hi : i < 28) : (keyD0 key).getLsbD i = (pc1 key).getLsbD i := by
  simp [keyD0, lo28, hi]

theorem cumulativeShift_succ {n : Nat} (hn : n < 16) :
    cumulativeShift (n + 1) = cumulativeShift n + shiftTable.amounts.getD n 0 := by
  have hlen : n < shiftTable.amounts.length := hn
  rw [cumulativeShift, List.sum_take_succ _ n hlen, List.getD_eq_getElem _ 0 hlen, cumulativeShift]

/-- The half `C_n` or `D_n` after `n` iterations, from `v` = `C₀` or `D₀` (41_key_schedule R157, R160). -/
def halfAfter (v : KeyHalf) (n : Nat) : KeyHalf := rotl28 v (cumulativeShift n)

@[simp] theorem halfAfter_zero (v : KeyHalf) : halfAfter v 0 = v := rotl28_of_mod_eq_zero v rfl

/-- One more iteration rotates a half by that iteration's amount. -/
theorem halfAfter_succ (v : KeyHalf) {n : Nat} (hn : n < 16) :
    halfAfter v (n + 1) = rotl28 (halfAfter v n) (shiftTable.amounts.getD n 0) := by
  rw [halfAfter, halfAfter, cumulativeShift_succ hn, rotl28_rotl28]

/-! ### The subkeys -/

/-- Iteration `i` makes its subkey from the halves rotated by the sum of the amounts up to its own (41_key_schedule
R160). -/
theorem getElem_scheduleFrom (amounts : List Nat) (c d : KeyHalf) {i : Nat}
    (hi : i < (scheduleFrom amounts c d).length) :
    (scheduleFrom amounts c d)[i] =
      subkeyOf (rotl28 c (amounts.take (i + 1)).sum) (rotl28 d (amounts.take (i + 1)).sum) := by
  induction amounts generalizing c d i with
  | nil => exact absurd hi (Nat.not_lt_zero i)
  | cons n rest ih =>
    cases i with
    | zero => simp [scheduleFrom]
    | succ i => simp [scheduleFrom, ih, rotl28_rotl28]

theorem getElem_schedule (key : Key) (i : Fin 16) :
    (schedule key)[i] = subkeyOf (halfAfter (keyC0 key) (i + 1)) (halfAfter (keyD0 key) (i + 1)) :=
  getElem_scheduleFrom shiftTable.amounts (keyC0 key) (keyD0 key) (by rw [scheduleFrom_length]; exact i.isLt)

/-- The first, second and last subkey of the source's key (41_key_schedule R150). -/
theorem schedule_sourceKey :
    (schedule 0x133457799BBCDFF1#64)[0] = 0x1B02EFFC7072#48 ∧
    (schedule 0x133457799BBCDFF1#64)[1] = 0x79AED9DBC9E5#48 ∧
    (schedule 0x133457799BBCDFF1#64)[15] = 0xCB3D8B0E17F5#48 := by
  decide +kernel

end Sys2Proof.Machine

namespace Sys2Proof.Proofs

open Sys2Proof.Machine

/-- Settles O20: `hi28` and `lo28` cut the compressed key bit by bit, and the fixture by evaluation. -/
theorem compressedKeySplits : Obligations.CompressedKeySplits :=
  ⟨fun key _ hi => ⟨getLsbD_keyC0 key hi, getLsbD_keyD0 key hi⟩, by decide +kernel, by decide +kernel⟩

/-- Settles O16: the halves are those of `halfAfter`, one rotation apart, and element `i` of the schedule is made from
the pair `i + 1`; the worked example by evaluation. -/
theorem scheduleRunsSixteenIterations : Obligations.ScheduleRunsSixteenIterations := by
  refine ⟨fun key => ⟨halfAfter (keyC0 key), halfAfter (keyD0 key), ?_, fun i => ?_⟩, schedule_sourceKey⟩
  · rw [halfAfter_zero, halfAfter_zero]
    exact keyC0_append_keyD0 key
  · exact ⟨halfAfter_succ _ i.isLt, halfAfter_succ _ i.isLt, getElem_schedule key i⟩

end Sys2Proof.Proofs
end

section
/-! PROOF. The key load (41_key_schedule R166). -/

namespace Sys2Proof.Machine

theorem exec_ldkey (k : Key) (s : State) : exec (.ldkey k) s = .next (s.loadKey k) := rfl

/-- A key load writes over both key registers, so it does not matter what they held. -/
theorem State.loadKey_setKeyKeyv (s : State) (k : Key) (key' : Option Key) (v' : Bool) :
    State.loadKey k { s with key := key', keyv := v' } = s.loadKey k := rfl

/-- The architectural state after a key load is the loaded key's, whatever stood before. -/
theorem State.loadKey_arch (s : State) (k : Key) : (s.loadKey k).arch = (some k, true) := rfl

end Sys2Proof.Machine

namespace Sys2Proof.Proofs

open Sys2Proof.Machine

/-- Settles O33: every clause is read off the one operation `loadKey`, which writes `KEY` and `KEYV` whole. -/
theorem ldkeyLoadsTheKey : Obligations.LdkeyLoadsTheKey := by
  refine ⟨fun s k => ?_, fun s k key' v' => ?_, fun c k => ⟨rfl, exec_ldkey k c.core⟩, fun s t k harch h => ?_,
    fun k => ?_, State.reset.loadKey 0x133457799BBCDFF1#64, exec_ldkey _ _, rfl, State.loadKey_arch _ _, ?_⟩
  · exact ⟨s.loadKey k, exec_ldkey k s, s.loadKey_key k, s.loadKey_keyv k, s.loadKey_rsps k, s.loadKey_cmds k,
      s.loadKey_busy k, by simp, s.roundKeySet_loadKey k⟩
  · rw [exec_ldkey, exec_ldkey, State.loadKey_setKeyKeyv]
  · obtain rfl : s.loadKey k = t := Host.Outcome.next.inj h
    rw [State.loadKey_arch, harch]
  · rw [← op_decode, decode_encode, Instr.op]
  · rw [State.roundKeySet_loadKey]
    exact schedule_sourceKey.1

end Sys2Proof.Proofs
end

section
/-! PROOF. The round function (42_round_function R183 to R188): the chunks of a word, the lookup of a chunk in its box,
the nibbles joined, and the six steps together. -/

namespace Sys2Proof.Machine

/-! ### The chunks of a word, and the row and column of a chunk -/

/-- Bit `i` of chunk `j` is bit `42 - 6j + i` of the word (42_round_function R183). -/
theorem getLsbD_chunk (x : BitVec 48) (j : Fin 8) {i : Nat} (hi : i < 6) :
    (chunk x j).getLsbD i = x.getLsbD (42 - 6 * j + i) := by
  rw [chunk, BitVec.getLsbD_extractLsb']
  simp [hi]

theorem getLsbD_chunkCol (c : Chunk) {i : Nat} (hi : i < 4) : (chunkCol c).getLsbD i = c.getLsbD (i + 1) := by
  rw [chunkCol, BitVec.getLsbD_extractLsb', Nat.add_comm 1 i]
  simp [hi]

theorem toNat_chunkRow : ∀ c : Chunk, (chunkRow c).toNat = 2 * (c.getLsbD 5).toNat + (c.getLsbD 0).toNat := by
  decide

/-- The six bits `c[5] ‖ c[0] ‖ c[4:1]` as a number (20_memory R71). -/
theorem toNat_chunkIndex (c : Chunk) :
    (chunkIndex c).toNat = 16 * (chunkRow c).toNat + (chunkCol c).toNat := by
  rw [chunkIndex, BitVec.toNat_append, ← Nat.shiftLeft_add_eq_or_of_lt (chunkCol c).isLt, Nat.shiftLeft_eq,
    Nat.mul_comm]

/-- The row of chunk `j`, from the bits of the word. -/
theorem toNat_chunkRow_chunk (x : BitVec 48) (j : Fin 8) :
    (chunkRow (chunk x j)).toNat = 2 * (x.getLsbD (47 - 6 * j)).toNat + (x.getLsbD (42 - 6 * j)).toNat := by
  have htop : 42 - 6 * (j : Nat) + 5 = 47 - 6 * j := by omega
  rw [toNat_chunkRow, getLsbD_chunk x j (by omega), getLsbD_chunk x j (by omega), htop, Nat.add_zero]

/-- The column of chunk `j`, from the bits of the word. -/
theorem chunkCol_chunk (x : BitVec 48) (j : Fin 8) : chunkCol (chunk x j) = x.extractLsb' (43 - 6 * j) 4 := by
  refine BitVec.eq_of_getLsbD_eq fun i hi => ?_
  have hpos : 42 - 6 * (j : Nat) + (i + 1) = 43 - 6 * j + i := by omega
  rw [getLsbD_chunkCol _ hi, getLsbD_chunk x j (by omega), hpos, BitVec.getLsbD_extractLsb']
  simp [hi]

/-! ### The entries of a box -/

/-- Rows of one length laid end to end: entry `n·r + c` is entry `c` of row `r`. -/
theorem getElem?_flatten_of_length_eq {α : Type} {n c : Nat} (hc : c < n) {rows : List (List α)}
    (hlen : ∀ row ∈ rows, row.length = n) (r : Nat) :
    rows.flatten[n * r + c]? = rows[r]?.bind (fun row => row[c]?) := by
  induction rows generalizing r with
  | nil => simp
  | cons row rows ih =>
    have hrow : row.length = n := hlen row List.mem_cons_self
    cases r with
    | zero => simp [List.getElem?_append_left (hrow ▸ hc)]
    | succ r =>
      have hskip : n * (r + 1) + c = row.length + (n * r + c) := by rw [hrow, Nat.mul_succ]; omega
      rw [hskip, List.flatten_cons, List.getElem?_append_right (Nat.le_add_right _ _), Nat.add_sub_cancel_left,
        ih (fun row h => hlen row (List.mem_cons_of_mem _ h)), List.getElem?_cons_succ]

/-- A box has rows of sixteen entries below 16, by its well-formedness (20_memory R67). -/
theorem SBox.row_wf (b : SBox) {row : List Nat} (hrow : row ∈ b.rows) : row.length = 16 ∧ ∀ e ∈ row, e < 16 := by
  have h := b.wf
  simp only [sboxWF, Bool.and_eq_true, beq_iff_eq, List.all_eq_true, decide_eq_true_eq] at h
  obtain ⟨-, hrows⟩ := h
  exact hrows row hrow

theorem SBox.lt_of_mem_entries (b : SBox) {e : Nat} (he : e ∈ b.entries) : e < 16 := by
  obtain ⟨row, hrow, hmem⟩ := List.mem_flatten.mp he
  exact (b.row_wf hrow).2 e hmem

/-- `Sn[row][col]` is entry `16·row + col` of the box (20_memory R71). -/
theorem SBox.entries_getElem? (b : SBox) (row : Nat) {col : Nat} (hcol : col < 16) :
    b.entries[16 * row + col]? = b.rows[row]?.bind (fun r => r[col]?) :=
  getElem?_flatten_of_length_eq hcol (fun _ hrow => (b.row_wf hrow).1) row

/-- A lookup loses nothing of the entry it reads: every entry fits the nibble. -/
theorem some_toNat_sboxLookup (b : SBox) (c : Chunk) :
    some (sboxLookup b c).toNat = b.entries[16 * (chunkRow c).toNat + (chunkCol c).toNat]? := by
  have hidx : (chunkIndex c).toNat < b.entries.length := b.entries_length ▸ (chunkIndex c).isLt
  rw [← toNat_chunkIndex, List.getElem?_eq_getElem hidx, sboxLookup, BitVec.toNat_ofNat,
    Nat.mod_eq_of_lt (b.lt_of_mem_entries (List.getElem_mem hidx))]

/-- The nibble of chunk `j` is the ROM read at `16·row + col` (42_round_function R185). -/
theorem some_toNat_sboxNibble (x : BitVec 48) (j : Fin 8) :
    some (sboxNibble x j).toNat =
      rom (.s j) (16 * (chunkRow (chunk x j)).toNat + (chunkCol (chunk x j)).toNat) :=
  some_toNat_sboxLookup (sboxOf j) (chunk x j)

/-! ### The nibbles joined -/

/-- The nibble of chunk `j` stands at `s[31-4j : 28-4j]`: the `7 - j` nibbles after it are the ones shifted past
(42_round_function R186). -/
theorem getLsbD_substitute (x : BitVec 48) (j : Fin 8) {i : Nat} (hi : i < 4) :
    (substitute x).getLsbD (28 - 4 * j + i) = (sboxNibble x j).getLsbD i := by
  rw [substitute]
  simp only [BitVec.getLsbD_append]
  fin_cases j <;> simp (disch := omega) only [if_pos, if_neg, Nat.sub_sub, Nat.reduceAdd, Nat.reduceMul,
    Nat.reduceSub, Nat.add_sub_cancel_left, Nat.zero_add] <;> rfl

theorem extractLsb'_substitute (x : BitVec 48) (j : Fin 8) :
    (substitute x).extractLsb' (28 - 4 * j) 4 = sboxNibble x j := by
  refine BitVec.eq_of_getLsbD_eq fun i hi => ?_
  rw [BitVec.getLsbD_extractLsb', getLsbD_substitute x j hi]
  simp [hi]

end Sys2Proof.Machine

namespace Sys2Proof.Proofs

open Sys2Proof.Machine

/-- Settles O21: the two bits of the row are weighed over all 64 chunks, the column is cut bit by bit. -/
theorem rowAndColumnOfAChunk : Obligations.RowAndColumnOfAChunk :=
  ⟨toNat_chunkRow, fun c _ hi => getLsbD_chunkCol c hi, by decide, by decide⟩

/-- Settles O22: the box's rows of sixteen lie end to end in the ROM, so the entry read at `16·row + col` is that of the
row and the column; the worked examples by evaluation. -/
theorem nibbleIsTheBoxEntry : Obligations.NibbleIsTheBoxEntry := by
  refine ⟨fun x j => ⟨?_, some_toNat_sboxNibble x j⟩, by decide, by decide, by decide⟩
  rw [← SBox.entries_getElem? _ _ (chunkCol (chunk x j)).isLt]
  exact some_toNat_sboxLookup (sboxOf j) (chunk x j)

/-- Settles O23: chunk and nibble positions bit by bit, and the worked examples by evaluation. -/
theorem chunksAndNibblesKeepTheirOrder : Obligations.ChunksAndNibblesKeepTheirOrder :=
  ⟨fun x j _ hi => getLsbD_chunk x j hi, fun x j _ hi => getLsbD_substitute x j hi, by decide, by decide,
    by decide +kernel⟩

/-- Settles O24: the `x` is the expanded half mixed with the subkey and the `s` its substitution, whose nibble `j` is the
ROM read of chunk `j`; the worked example by evaluation. -/
theorem roundFunctionIsSixSteps : Obligations.RoundFunctionIsSixSteps := by
  refine ⟨fun r k => ⟨e48 r ^^^ k, substitute (e48 r ^^^ k), rfl, fun j => ?_, rfl⟩, by decide +kernel⟩
  rw [extractLsb'_substitute, ← toNat_chunkRow_chunk, ← chunkCol_chunk]
  exact some_toNat_sboxNibble _ j

end Sys2Proof.Proofs
end

section
/-! PROOF. The block function as sixteen Feistel rounds (43_cipher R200 to R206), and the known vector. -/

namespace Sys2Proof.Machine

/-- The halves `(L_n, R_n)` after the first `n` rounds of a block (43_cipher R201, R202). -/
def halvesAfter (b : Block) (ks : RoundKeySet) (n : Nat) : Half × Half :=
  feistelRounds (ks.toList.take n) (splitBlock b)

/-- Before the first round the halves are those of the permuted block (43_cipher R201). -/
theorem halvesAfter_zero (b : Block) (ks : RoundKeySet) :
    (halvesAfter b ks 0).1 ++ (halvesAfter b ks 0).2 = permute ipTable b :=
  hi32_append_lo32 (ip64 b)

/-- One round more is one Feistel round under the next key (43_cipher R202). -/
theorem halvesAfter_succ (b : Block) (ks : RoundKeySet) (n : Fin 16) :
    halvesAfter b ks (n + 1) = feistelRound (halvesAfter b ks n) ks[n] := by
  have hlen : (n : Nat) < ks.toList.length := by simp
  rw [halvesAfter, ← List.take_concat_get' _ _ hlen, feistelRounds, List.foldl_append]
  rfl

/-- The result is made from the halves after all sixteen rounds (43_cipher R203, R204). -/
theorem crypt_eq_joinBlock (b : Block) (ks : RoundKeySet) : crypt b ks = joinBlock (halvesAfter b ks 16) := by
  rw [halvesAfter, List.take_of_length_le (by simp), crypt]

/-- `crypt` runs the sixteen-round recurrence over the keys in the order given (43_cipher R200 to R204). -/
theorem crypt_runs_sixteen_rounds (b : Block) (ks : RoundKeySet) :
    ∃ L R : Nat → Half,
      L 0 ++ R 0 = permute ipTable b ∧
      (∀ n : Fin 16, L (n + 1) = R n ∧ R (n + 1) = L n ^^^ roundF (R n) ks[n]) ∧
      crypt b ks = permute fpTable (R 16 ++ L 16) := by
  refine ⟨fun n => (halvesAfter b ks n).1, fun n => (halvesAfter b ks n).2, halvesAfter_zero b ks, fun n => ?_,
    crypt_eq_joinBlock b ks⟩
  have hround := halvesAfter_succ b ks n
  exact ⟨congrArg Prod.fst hround, congrArg Prod.snd hround⟩

/-- The reversed order puts the key of round `16 - n` at index `n` (43_cipher R206). -/
theorem getElem_reverse_roundKeys (ks : RoundKeySet) (n : Fin 16) : ks.reverse[n] = ks[15 - n.val] :=
  Vector.getElem_reverse n.isLt

end Sys2Proof.Machine

namespace Sys2Proof.Proofs

open Sys2Proof.Machine

/-- Settles O26: both directions are `crypt`, whose halves are followed round by round; decryption hands it the
schedule reversed. -/
theorem blocksRunSixteenFeistelRounds : Obligations.BlocksRunSixteenFeistelRounds := by
  refine fun b key => ⟨crypt_runs_sixteen_rounds b (schedule key), ?_⟩
  simp only [← getElem_reverse_roundKeys]
  exact crypt_runs_sixteen_rounds b (schedule key).reverse

/-- Settles O30: a fixed vector, evaluated in each direction. -/
theorem knownVector : Obligations.KnownVector :=
  ⟨by decide +kernel, by decide +kernel⟩

end Sys2Proof.Proofs
end

section
/-! PROOF. The error response for want of a key (60_exceptions R244). -/

namespace Sys2Proof.Machine

theorem exec_enc (b : Block) (s : State) : exec (.enc b) s = .next (s.blockCommand 0#1 b) := rfl

theorem exec_dec (b : Block) (s : State) : exec (.dec b) s = .next (s.blockCommand 1#1 b) := rfl

/-- A block command writes neither `KEY` nor `KEYV` (43_cipher R210). -/
theorem State.blockCommand_arch (s : State) (dir : BitVec 1) (b : Block) :
    (s.blockCommand dir b).arch = s.arch := by
  obtain ⟨-, h⟩ | ⟨-, h⟩ := s.blockCommand_cases dir b
  · simp [State.arch, h]
  · simp [State.arch, h]

@[simp] theorem State.blockCommand_keyv (s : State) (dir : BitVec 1) (b : Block) :
    (s.blockCommand dir b).keyv = s.keyv :=
  congrArg Prod.snd (s.blockCommand_arch dir b)

/-- A block command answers `E_NOKEY` exactly when `KEYV` = 0. -/
theorem State.blockCommand_rsps_eq_eNokey_iff (s : State) (dir : BitVec 1) (b : Block) :
    (s.blockCommand dir b).rsps = s.rsps ++ [.eNokey] ↔ s.keyv = false := by
  obtain ⟨hv, h⟩ | ⟨hv, h⟩ := s.blockCommand_cases dir b
  · simp [h, hv]
  · simp [h, hv]

/-- `E_NOKEY` is the answer to a block command without a key and to no other command. -/
theorem exec_rsps_eq_eNokey_iff {i : Instr} {s t : State} (h : exec i s = .next t) :
    t.rsps = s.rsps ++ [.eNokey] ↔ s.keyv = false ∧ ∃ b, i = .enc b ∨ i = .dec b := by
  cases i with
  | enc b =>
    obtain rfl : s.blockCommand 0#1 b = t := Host.Outcome.next.inj h
    simp [State.blockCommand_rsps_eq_eNokey_iff]
  | dec b =>
    obtain rfl : s.blockCommand 1#1 b = t := Host.Outcome.next.inj h
    simp [State.blockCommand_rsps_eq_eNokey_iff]
  | ldkey k =>
    obtain rfl : s.loadKey k = t := Host.Outcome.next.inj h
    simp
  | reserved3 d =>
    obtain rfl : s.respond .eIllop = t := Host.Outcome.next.inj (exec_reserved3 d s ▸ h)
    simp

/-- After a command a key is loaded exactly when one was before it or the command loaded one (10_state R22). -/
theorem exec_keyv_iff {i : Instr} {s t : State} (h : exec i s = .next t) :
    t.keyv = true ↔ s.keyv = true ∨ ∃ k, i = .ldkey k := by
  cases i with
  | enc b =>
    obtain rfl : s.blockCommand 0#1 b = t := Host.Outcome.next.inj h
    simp
  | dec b =>
    obtain rfl : s.blockCommand 1#1 b = t := Host.Outcome.next.inj h
    simp
  | ldkey k =>
    obtain rfl : s.loadKey k = t := Host.Outcome.next.inj h
    simp
  | reserved3 d =>
    obtain rfl : s.respond .eIllop = t := Host.Outcome.next.inj (exec_reserved3 d s ▸ h)
    simp

/-- Without a key both block commands answer `E_NOKEY`, whatever the operand is. -/
theorem exec_block_nokey {s : State} (hv : s.keyv = false) (b : Block) :
    exec (.enc b) s = .next (s.respond .eNokey) ∧ exec (.dec b) s = .next (s.respond .eNokey) := by
  rw [exec_enc, exec_dec, State.blockCommand_nokey hv, State.blockCommand_nokey hv]
  exact ⟨rfl, rfl⟩

end Sys2Proof.Machine

namespace Sys2Proof.Proofs

open Sys2Proof.Machine

/-- Settles O35: only a block command without a key answers `E_NOKEY`, its next state is `respond` alone, which reads
neither `KEY` nor the operand, and no command takes a loaded key away. -/
theorem nokeyExactlyWithoutAKey : Obligations.NokeyExactlyWithoutAKey := by
  refine ⟨fun i s t => exec_rsps_eq_eNokey_iff, fun i s t h hrsps => ?_, fun s key' b b' hv => ?_,
    fun i s t h => (exec_keyv_iff h).mpr, by decide, _, (exec_block_nokey rfl _).1, rfl⟩
  · obtain ⟨-, b, rfl | rfl⟩ := (exec_rsps_eq_eNokey_iff h).mp hrsps
    · obtain rfl : s.blockCommand 0#1 b = t := Host.Outcome.next.inj h
      exact s.blockCommand_arch _ b
    · obtain rfl : s.blockCommand 1#1 b = t := Host.Outcome.next.inj h
      exact s.blockCommand_arch _ b
  · obtain ⟨henc, hdec⟩ := exec_block_nokey hv b
    obtain ⟨henc', hdec'⟩ := exec_block_nokey (s := { s with key := key' }) hv b'
    exact ⟨henc, hdec, henc', hdec'⟩

end Sys2Proof.Proofs
end

section
/-! PROOF. The state after reset (70_reset_and_hazards R270). -/

namespace Sys2Proof.Machine

/-- An engine with no response untaken has room for one (70_reset_and_hazards R279). -/
theorem State.hasRoom_of_rsps_nil {s : State} (hrsps : s.rsps = []) : s.hasRoom = true := by
  rw [State.hasRoom, hrsps]

/-- An engine at rest is ready to accept a command. -/
theorem State.AtRest.cmdReady {s : State} (hrest : s.AtRest) : s.cmdReady = true := by
  obtain ⟨hbusy, -, hrsps⟩ := hrest
  rw [State.cmdReady, hbusy, State.hasRoom_of_rsps_nil hrsps]
  rfl

/-- `key_valid` is 0 while no key is loaded (10_state R28). -/
theorem State.keyValid_of_keyv_false {s : State} (hv : s.keyv = false) : s.keyValid = 0#1 := by
  rw [State.keyValid, State.status, hv]
  rfl

theorem State.atRest_reset : State.reset.AtRest := ⟨rfl, rfl, rfl⟩

/-- Reset brings every engine to rest (70_reset_and_hazards R271). -/
theorem State.atRest_assertReset (s : State) : s.assertReset.AtRest :=
  ⟨s.assertReset_busy, s.assertReset_cmds, s.assertReset_rsps⟩

end Sys2Proof.Machine

namespace Sys2Proof.Proofs

open Sys2Proof.Machine

/-- Settles O52: reset clears `KEYV`, `KEY` and the store and brings the engine to rest, where it is ready; the state
after power-up is at rest without a key too. -/
theorem resetClearsTheKey : Obligations.ResetClearsTheKey := by
  refine ⟨fun s => ?_, fun c => rfl, ?_⟩
  · have hv := s.assertReset_keyv
    exact ⟨hv, s.assertReset_key, s.assertReset_busy, s.atRest_assertReset.cmdReady, State.keyValid_of_keyv_false hv⟩
  · exact ⟨rfl, rfl, rfl, State.atRest_reset.cmdReady, State.keyValid_of_keyv_false rfl, rfl⟩

end Sys2Proof.Proofs
end

section
/-! PROOF. Command and response words read back as what they encode (30_encoding R100 to R105). -/

namespace Sys2Proof.Machine

/-- Every word is the word of the command it decodes to: the two fields are the whole word (30_encoding R105). -/
@[simp] theorem encode_decode (w : CmdWord) : encode (decode w) = w := by
  rw [encode, op_decode, data_decode, Laws.cmdWord_split]

/-- The `err` field of a response's word is its code (30_encoding R101). -/
@[simp] theorem rspWordErr_encode (r : Response) : rspWordErr r.encode = r.errCode :=
  BitVec.extractLsb'_append_eq_left

/-- The `data` field of a response's word is its data (30_encoding R101). -/
@[simp] theorem rspWordData_encode (r : Response) : rspWordData r.encode = r.data :=
  BitVec.extractLsb'_append_eq_right

/-- A response word is its `err` field followed by its `data` field. -/
theorem rspWord_split (w : RspWord) : rspWordErr w ++ rspWordData w = w := Laws.cmdWord_split w

/-- The word of a response reads back as the response. -/
@[simp] theorem decodeResponse_encode (r : Response) : decodeResponse r.encode = some r := by
  rw [decodeResponse, rspWordErr_encode, rspWordData_encode]
  cases r <;> simp [Response.errCode, Response.data]

/-- A word that stands for a response has that response's two fields. -/
theorem fields_of_decodeResponse {w : RspWord} {r : Response} (h : decodeResponse w = some r) :
    r.errCode = rspWordErr w ∧ r.data = rspWordData w := by
  unfold decodeResponse at h
  split_ifs at h with hok hdata hnokey hillop
  · obtain rfl := Option.some.inj h
    exact ⟨hok.symm, rfl⟩
  · obtain rfl := Option.some.inj h
    exact ⟨hnokey.symm, hdata.symm⟩
  · obtain rfl := Option.some.inj h
    exact ⟨hillop.symm, hdata.symm⟩

theorem errCode_ne_three (r : Response) : r.errCode ≠ 3#2 := by
  cases r <;> simp [Response.errCode]

end Sys2Proof.Machine

namespace Sys2Proof.Proofs

open Sys2Proof.Machine

/-- Settles O1: a word decodes to the command whose two fields it carries, and the encoder writes both. -/
theorem decodeOfEncodeIsTheCommand : Obligations.DecodeOfEncodeIsTheCommand :=
  fun i _ => decode_eq_iff_fields.mpr (Laws.EncodeFields.fields i)

/-- Settles O2: the two fields are the whole word, and decoding undoes encoding. -/
theorem everyWordIsTheWordOfItsCommand : Obligations.EveryWordIsTheWordOfItsCommand :=
  fun w => ⟨encode_decode w, fun i hi => hi ▸ (decode_encode i).symm⟩

/-- Settles O4: each printed word is cut into the fields of its command. -/
theorem printedCommandWordsDecode : Obligations.PrintedCommandWordsDecode := by
  unfold Obligations.PrintedCommandWordsDecode
  simp only [decode_eq_iff_fields]
  decide

/-- Settles O5: a response is determined by its two fields, which are the whole word. -/
theorem responseWordsRoundTrip : Obligations.ResponseWordsRoundTrip := by
  refine ⟨fun r => ⟨decodeResponse_encode r, ?_⟩, fun w r h => ?_, fun v => ?_, ?_, ?_⟩
  · rw [rspWordErr_encode]
    exact errCode_ne_three r
  · obtain ⟨herr, hdata⟩ := fields_of_decodeResponse h
    rw [Response.encode, herr, hdata, rspWord_split]
  · exact ⟨rspWordErr_encode _, rspWordData_encode _⟩
  · exact ⟨rspWordErr_encode _, rspWordData_encode _⟩
  · exact ⟨rspWordErr_encode _, rspWordData_encode _⟩

end Sys2Proof.Proofs
end

section
/-! PROOF. What one step and one micro-step can do, said once (20_memory R76, 43_cipher R212). -/

namespace Sys2Proof.Machine

/-! ### One command -/

/-- Every command but `LDKEY` answers one response and does nothing else. -/
theorem exec_eq_respond {i : Instr} (hi : ∀ k, i ≠ .ldkey k) (s : State) : ∃ r, exec i s = .next (s.respond r) := by
  obtain ⟨dir, b, h⟩ | ⟨k, hk, -⟩ | ⟨d, -, h⟩ := exec_cases (i := i) (s := s) rfl
  · obtain ⟨-, hb⟩ | ⟨-, hb⟩ := s.blockCommand_cases dir b
    · exact ⟨_, by rw [h, hb, State.completeBlock_startBlock]⟩
    · exact ⟨_, by rw [h, hb]⟩
  · exact absurd hk (hi k)
  · exact ⟨_, h⟩

/-- A command either answers one response, or is an `LDKEY` and loads its key. -/
theorem exec_next_cases {i : Instr} {s t : State} (h : exec i s = .next t) :
    ((∀ k, i ≠ .ldkey k) ∧ ∃ r, t = s.respond r) ∨ ∃ k, i = .ldkey k ∧ t = s.loadKey k := by
  by_cases hi : ∃ k, i = .ldkey k
  · obtain ⟨k, rfl⟩ := hi
    exact .inr ⟨k, rfl, (Host.Outcome.next.inj h).symm⟩
  · have hne : ∀ k, i ≠ .ldkey k := fun k hk => hi ⟨k, hk⟩
    obtain ⟨r, hr⟩ := exec_eq_respond hne s
    exact .inl ⟨hne, r, Host.Outcome.next.inj (h.symm.trans hr)⟩

/-- Every command answers a next state: the offered words stay, one response comes after the earlier ones and is
recorded if it is the first error, and the engine is idle. -/
theorem exec_next (i : Instr) (s : State) :
    ∃ t r, exec i s = .next t ∧ t.rsps = s.rsps ++ [r] ∧ t.cmds = s.cmds ∧ t.busy = false ∧
      t.recorded = s.recorded.or r.fault? := by
  by_cases hi : ∃ k, i = .ldkey k
  · obtain ⟨k, rfl⟩ := hi
    exact ⟨s.loadKey k, .ok 0#64, exec_ldkey k s, rfl, rfl, rfl, rfl⟩
  · obtain ⟨r, hr⟩ := exec_eq_respond (fun k hk => hi ⟨k, hk⟩) s
    exact ⟨s.respond r, r, hr, rfl, rfl, rfl, rfl⟩

/-! ### One step -/

theorem step_busy {s : State} (hbusy : s.busy = true) : step s = .next s.completeBlock := by
  rw [step, if_pos hbusy]

theorem step_accept {s s' : State} {w : CmdWord} (h : s.accept = some (w, s')) : step s = exec (decode w) s' := by
  obtain ⟨hbusy, -⟩ := State.accept_eq_some.mp h
  simp [step, hbusy, h]

theorem step_wait {s : State} (hbusy : s.busy = false) (h : s.accept = none) : step s = .next s := by
  simp [step, hbusy, h]

/-- A step completes the block in flight, runs the command accepted, or waits. -/
theorem step_cases {s t : State} (h : step s = .next t) :
    (s.busy = true ∧ t = s.completeBlock) ∨
      (s.busy = false ∧ ∃ w s', s.accept = some (w, s') ∧ exec (decode w) s' = .next t) ∨
      (s.busy = false ∧ s.accept = none ∧ t = s) := by
  cases hbusy : s.busy with
  | true => exact .inl ⟨rfl, Host.Outcome.next.inj (h.symm.trans (step_busy hbusy))⟩
  | false =>
    cases hacc : s.accept with
    | none => exact .inr (.inr ⟨rfl, rfl, Host.Outcome.next.inj (h.symm.trans (step_wait hbusy hacc))⟩)
    | some ws => exact .inr (.inl ⟨rfl, ws.1, ws.2, rfl, step_accept hacc ▸ h⟩)

/-- Every step answers a next state, with the engine idle (60_exceptions R240, 20_memory R76). -/
theorem exists_step (s : State) : ∃ t, step s = .next t ∧ t.busy = false := by
  cases hbusy : s.busy with
  | true => exact ⟨s.completeBlock, step_busy hbusy, rfl⟩
  | false =>
    cases hacc : s.accept with
    | none => exact ⟨s, step_wait hbusy hacc, hbusy⟩
    | some ws =>
      obtain ⟨t, -, hexec, -, -, hidle, -⟩ := exec_next (decode ws.1) ws.2
      exact ⟨t, (step_accept hacc).trans hexec, hidle⟩

/-- No step leaves a block in flight. -/
theorem step_idle {s t : State} (h : step s = .next t) : t.busy = false := by
  obtain ⟨u, hu, hidle⟩ := exists_step s
  exact Host.Outcome.next.inj (h.symm.trans hu) ▸ hidle

/-! ### One micro-step -/

theorem microStep_round {s : State} (hbusy : s.busy = true) (hrc : s.work.rc.toNat < 16) :
    microStep s = s.roundBlock := by
  rw [microStep, if_pos hbusy, if_pos hrc]

theorem microStep_finish {s : State} (hbusy : s.busy = true) (hrc : 16 ≤ s.work.rc.toNat) :
    microStep s = s.finishBlock := by
  rw [microStep, if_pos hbusy, if_neg (Nat.not_lt.mpr hrc)]

theorem microStep_accept {s s' : State} {w : CmdWord} (h : s.accept = some (w, s')) :
    microStep s = s'.beginCommand (decode w) := by
  obtain ⟨hbusy, -⟩ := State.accept_eq_some.mp h
  simp [microStep, hbusy, h]

theorem microStep_wait {s : State} (hbusy : s.busy = false) (h : s.accept = none) : microStep s = s := by
  simp [microStep, hbusy, h]

/-- The commands that are not whole in one micro-step: those of a block, with a key loaded. -/
def State.Starts (i : Instr) (s : State) : Prop := s.keyv = true ∧ ∃ b, i = .enc b ∨ i = .dec b

/-- A block command with a key loaded begins with its `start`; `DIR` is its `op[0]`. -/
theorem State.Starts.beginCommand_eq {i : Instr} {s : State} (h : s.Starts i) :
    s.beginCommand i = s.startBlock (i.op.extractLsb' 0 1) i.data ∧
      exec i s = .next (s.beginCommand i).completeBlock := by
  obtain ⟨hv, b, rfl | rfl⟩ := h
  · simp [State.beginCommand, State.beginBlock, exec, execEnc, State.blockCommand, hv, Instr.op, Instr.data]
  · simp [State.beginCommand, State.beginBlock, exec, execDec, State.blockCommand, hv, Instr.op, Instr.data]

/-- Every other command is whole in its first micro-step. -/
theorem exec_of_not_starts {i : Instr} {s : State} (h : ¬ s.Starts i) : exec i s = .next (s.beginCommand i) := by
  cases i with
  | enc b =>
    have hv : s.keyv = false := Bool.eq_false_iff.mpr fun hv => h ⟨hv, b, .inl rfl⟩
    simp [exec, execEnc, State.blockCommand, State.beginCommand, State.beginBlock, hv]
  | dec b =>
    have hv : s.keyv = false := Bool.eq_false_iff.mpr fun hv => h ⟨hv, b, .inr rfl⟩
    simp [exec, execDec, State.blockCommand, State.beginCommand, State.beginBlock, hv]
  | ldkey k => rfl
  | reserved3 d => rfl

/-- A micro-step is a round or the finish of the block in flight, the start of a block accepted, or a whole step. -/
theorem microStep_cases (s : State) :
    (s.busy = true ∧ s.work.rc.toNat < 16 ∧ microStep s = s.roundBlock) ∨
      (s.busy = true ∧ 16 ≤ s.work.rc.toNat ∧ microStep s = s.finishBlock) ∨
      (∃ w s' dir b, s.accept = some (w, s') ∧ s'.keyv = true ∧ microStep s = s'.startBlock dir b) ∨
      (s.busy = false ∧ step s = .next (microStep s)) := by
  cases hbusy : s.busy with
  | true =>
    rcases Nat.lt_or_ge s.work.rc.toNat 16 with hrc | hrc
    · exact .inl ⟨rfl, hrc, microStep_round hbusy hrc⟩
    · exact .inr (.inl ⟨rfl, hrc, microStep_finish hbusy hrc⟩)
  | false =>
    cases hacc : s.accept with
    | none => exact .inr (.inr (.inr ⟨rfl, by rw [microStep_wait hbusy hacc, step_wait hbusy hacc]⟩))
    | some ws =>
      obtain ⟨w, s'⟩ := ws
      by_cases hst : s'.Starts (decode w)
      · exact .inr (.inr (.inl ⟨w, s', _, _, rfl, hst.1, (microStep_accept hacc).trans hst.beginCommand_eq.1⟩))
      · exact .inr (.inr (.inr ⟨rfl, by rw [step_accept hacc, microStep_accept hacc, exec_of_not_starts hst]⟩))

end Sys2Proof.Machine
end

section
/-! PROOF. The invariants of the engine, kept by every step, micro-step and move of the host (10_state R22, R26). -/

namespace Sys2Proof.Machine

/-- An answer leaves the engine idle, and records the error it may be. -/
theorem State.inv_respond {s : State} (hheld : s.KeyHeld) (hrec : s.ErrorsRecorded) (r : Response) :
    (s.respond r).Inv := by
  refine ⟨hheld, fun hbusy => absurd hbusy Bool.false_ne_true, fun r' hr' hfault => ?_⟩
  rw [State.respond_recorded, Option.isSome_or, Bool.or_eq_true]
  rcases List.mem_append.mp hr' with hold | hnew
  · exact .inl (hrec r' hold hfault)
  · exact .inr (List.mem_singleton.mp hnew ▸ hfault)

/-- Accepting a word changes nothing the invariant speaks of. -/
theorem State.Inv.accept {s s' : State} {w : CmdWord} (hinv : s.Inv) (h : s.accept = some (w, s')) : s'.Inv := by
  obtain ⟨-, -, -, hs'⟩ := State.accept_eq_some.mp h
  rw [hs']
  exact hinv

/-- Every command keeps the invariant: a key load is the answer `OK(0)` of the state in which the key is written. -/
theorem State.Inv.exec {i : Instr} {s t : State} (hinv : s.Inv) (h : exec i s = .next t) : t.Inv := by
  obtain ⟨hheld, -, hrec⟩ := hinv
  obtain ⟨-, r, rfl⟩ | ⟨k, -, rfl⟩ := exec_next_cases h
  · exact State.inv_respond hheld hrec r
  · exact State.inv_respond (s := (s.writeKey k).setKeyv) rfl hrec (.ok 0#64)

theorem State.Inv.step {s t : State} (hinv : s.Inv) (h : step s = .next t) : t.Inv := by
  obtain ⟨-, rfl⟩ | ⟨-, w, s', hacc, hexec⟩ | ⟨-, -, rfl⟩ := step_cases h
  · obtain ⟨hheld, -, hrec⟩ := hinv
    rw [State.completeBlock_eq]
    exact State.inv_respond hheld hrec _
  · exact (hinv.accept hacc).exec hexec
  · exact hinv

theorem State.Inv.microStep {s : State} (hinv : s.Inv) : (microStep s).Inv := by
  obtain ⟨hheld, hrange, hrec⟩ := hinv
  obtain ⟨hbusy, hrc, h⟩ | ⟨-, -, h⟩ | ⟨w, s', dir, b, hacc, hv, h⟩ | ⟨-, hstep⟩ := microStep_cases s
  · rw [h]
    refine ⟨hheld, fun _ => ⟨(hrange hbusy).1, ?_⟩, hrec⟩
    rw [State.roundBlock_work, Work.round_rc_toNat hrc]
    omega
  · rw [h]
    exact State.inv_respond hheld hrec _
  · obtain ⟨hheld', -, hrec'⟩ := State.Inv.accept ⟨hheld, hrange, hrec⟩ hacc
    rw [h]
    exact ⟨hheld', fun _ => ⟨hv, by simp⟩, hrec'⟩
  · exact State.Inv.step ⟨hheld, hrange, hrec⟩ hstep

/-- Taking a response leaves fewer errors untaken. -/
theorem State.Inv.takeResponse {s t : State} {r : Response} (hinv : s.Inv) (h : s.takeResponse = some (r, t)) :
    t.Inv := by
  obtain ⟨hheld, hrange, hrec⟩ := hinv
  obtain ⟨hrsps, ht⟩ := State.takeResponse_eq_some.mp h
  rw [ht]
  exact ⟨hheld, hrange, fun r' hr' => hrec r' (hrsps ▸ List.mem_cons_of_mem r hr')⟩

theorem State.inv_assertReset (s : State) : s.assertReset.Inv :=
  ⟨rfl, fun hbusy => absurd hbusy Bool.false_ne_true, fun _ hr => absurd hr List.not_mem_nil⟩

end Sys2Proof.Machine

namespace Sys2Proof.Proofs

open Sys2Proof.Machine

/-- Settles O49: a step completes the block in flight, runs one command or waits, and what it changes comes by an
answer, which records the error it may be. -/
theorem stepKeepsInv : Obligations.StepKeepsInv := fun _ _ hinv h => hinv.step h

/-- Settles O50: a round raises `RC` from below 16, a start needs a key, and every other micro-step is a step; offering
a word changes nothing the invariant speaks of. -/
theorem microStepsAndHostMovesKeepInv : Obligations.MicroStepsAndHostMovesKeepInv :=
  fun s hinv => ⟨hinv.microStep, fun _ => hinv, fun _ _ h => hinv.takeResponse h, s.inv_assertReset⟩

/-- Settles O51: after reset there is no key, no block in flight and no response. -/
theorem resetSatisfiesInv : Obligations.ResetSatisfiesInv :=
  ⟨⟨rfl, by decide, by decide⟩, rfl, fun hbusy => absurd hbusy Bool.false_ne_true,
    fun hv => absurd hv Bool.false_ne_true⟩

end Sys2Proof.Proofs
end

section
/-! PROOF. The laws of the permutation unit (40_permute sections 1 and 3), read off its bit formula. -/

namespace Sys2Proof.Machine

/-! ### Any well-formed table -/

/-- The bit that an entry of the table names lies in the input. -/
theorem PermTable.sub_getD_lt {N M : Nat} (T : PermTable N M) {i : Nat} (hi : i < M) :
    N - T.entries.getD i 0 < N := by
  obtain ⟨hlow, hhigh⟩ := T.getD_range hi
  omega

@[simp] theorem permute_zero {N M : Nat} (T : PermTable N M) : permute T 0#N = 0#M :=
  BitVec.eq_of_getLsbD_eq fun i hi => by simp [getLsbD_permute T _ hi]

@[simp] theorem permute_allOnes {N M : Nat} (T : PermTable N M) :
    permute T (BitVec.allOnes N) = BitVec.allOnes M := by
  refine BitVec.eq_of_getLsbD_eq fun i hi => ?_
  have hbit := T.sub_getD_lt (i := M - 1 - i) (by omega)
  rw [getLsbD_permute T _ hi, BitVec.getLsbD_allOnes, BitVec.getLsbD_allOnes, decide_eq_true hbit, decide_eq_true hi]

theorem permute_xor {N M : Nat} (T : PermTable N M) (a b : BitVec N) :
    permute T (a ^^^ b) = permute T a ^^^ permute T b :=
  BitVec.eq_of_getLsbD_eq fun i hi => by simp only [getLsbD_permute T _ hi, BitVec.getLsbD_xor]

/-- Complement is XOR with all ones, and both pass through. -/
theorem permute_not {N M : Nat} (T : PermTable N M) (a : BitVec N) : permute T (~~~a) = ~~~(permute T a) := by
  rw [← BitVec.xor_allOnes, permute_xor, permute_allOnes, BitVec.xor_allOnes]

/-- FIPS position `p` of the output is the input position that entry `p - 1` names (40_permute R130). -/
theorem fipsBit_permute {N M : Nat} (T : PermTable N M) (x : BitVec N) {p : Nat} (hp : 1 ≤ p) (hpM : p ≤ M) :
    fipsBit (permute T x) p = fipsBit x (T.entries.getD (p - 1) 0) := by
  have hpos : M - p = M - 1 - (p - 1) := by omega
  rw [fipsBit, fipsBit, hpos, getLsbD_permute_of_entry T x (by omega)]

/-- The value with FIPS position `k` alone set. -/
theorem fipsBit_twoPow {N k j : Nat} (hk : 1 ≤ k) (hkN : k ≤ N) (hjN : j ≤ N) :
    fipsBit (BitVec.twoPow N (N - k)) j = decide (j = k) := by
  rw [fipsBit, BitVec.getLsbD_twoPow, ← Bool.decide_and]
  exact decide_eq_decide.mpr (by omega)

/-! ### `IP` and `FP` -/

/-- Where table `S` names the position at which table `T` puts a bit, `S` brings every bit of `T`'s output back. -/
theorem permute_permute_of_inverse {N : Nat} (S T : PermTable N N)
    (hinv : ∀ i < N, T.entries.getD (S.entries.getD i 0 - 1) 0 = i + 1) (x : BitVec N) :
    permute S (permute T x) = x := by
  refine BitVec.eq_of_getLsbD_eq fun i hi => ?_
  obtain ⟨hlow, hhigh⟩ := S.getD_range (i := N - 1 - i) (by omega)
  have hpos : ∀ e, 1 ≤ e → N - e = N - 1 - (e - 1) := by omega
  have hback : N - (N - 1 - i + 1) = i := by omega
  rw [getLsbD_permute S _ hi, hpos _ hlow, getLsbD_permute_of_entry T x (by omega), hinv _ (by omega), hback]

/-- `FP` and `IP` are each other's inverse table (20_memory R53). -/
theorem fpTable_inverse_ipTable (i : Fin 64) :
    fpTable.entries.getD (ipTable.entries.getD i 0 - 1) 0 = i + 1 ∧
      ipTable.entries.getD (fpTable.entries.getD i 0 - 1) 0 = i + 1 := by
  revert i
  decide

@[simp] theorem fp64_ip64 (x : BitVec 64) : fp64 (ip64 x) = x :=
  permute_permute_of_inverse fpTable ipTable (fun i hi => (fpTable_inverse_ipTable ⟨i, hi⟩).2) x

@[simp] theorem ip64_fp64 (x : BitVec 64) : ip64 (fp64 x) = x :=
  permute_permute_of_inverse ipTable fpTable (fun i hi => (fpTable_inverse_ipTable ⟨i, hi⟩).1) x

end Sys2Proof.Machine

namespace Sys2Proof.Proofs

open Sys2Proof.Machine

/-- Settles O10: the tables carry their well-formedness, and the inverse and the sum are read off their entries. -/
theorem tablesAreWellFormed : Obligations.TablesAreWellFormed :=
  ⟨⟨ipTable.wf, fpTable.wf, eTable.wf, pTable.wf, pc1Table.wf, pc2Table.wf, shiftTable.wf, fun j => (sboxOf j).wf⟩,
    fpTable_inverse_ipTable, by decide⟩

/-- Settles O12: every output position copies the input position its entry names. -/
theorem permuteLaws : Obligations.PermuteLaws := by
  refine fun N M T => ⟨permute_zero T, permute_allOnes T, permute_xor T, permute_not T, fun k p hk hkN hp hpM => ?_⟩
  obtain ⟨-, hhigh⟩ := T.getD_range (i := p - 1) (by omega)
  rw [fipsBit_permute T _ hp hpM, fipsBit_twoPow hk hkN hhigh]

/-- Settles O13: the two tables are inverse, entry by entry. -/
theorem finalAndInitialPermutationsAreInverse : Obligations.FinalAndInitialPermutationsAreInverse :=
  fun x => ⟨fp64_ip64 x, ip64_fp64 x⟩

end Sys2Proof.Proofs
end

section
/-! PROOF. The rotation laws, the schedule in closed form and in reverse, and the parity bits of the key
(41_key_schedule sections 2 to 4). -/

namespace Sys2Proof.Machine

/-- A right rotation is a left rotation the rest of the turn, so rotating left again makes the turn whole. -/
@[simp] theorem rotl28_rotr28 (v : KeyHalf) (n : Nat) : rotl28 (rotr28 v n) n = v := by
  rw [rotr28, rotl28_rotl28]
  exact rotl28_of_mod_eq_zero v (by omega)

/-- The sixteen amounts make one whole turn (20_memory R58). -/
@[simp] theorem halfAfter_sixteen (v : KeyHalf) : halfAfter v 16 = v := rotl28_of_mod_eq_zero v (by decide)

/-! ### Parity bits -/

theorem getLsbD_clearParity (k : Key) (i : Nat) :
    (clearParity k).getLsbD i = (k.getLsbD i && (0xFEFEFEFEFEFEFEFE#64).getLsbD i) :=
  BitVec.getLsbD_and

/-- No entry of `PC1` names a parity position (20_memory R56). -/
theorem pc1Table_entry_not_parity (i : Fin 56) :
    (0xFEFEFEFEFEFEFEFE#64).getLsbD (64 - pc1Table.entries.getD i 0) = true := by
  revert i
  decide

/-- So the compressed key is that of the key without its parity bits. -/
theorem pc1_clearParity (k : Key) : pc1 (clearParity k) = pc1 k := by
  refine BitVec.eq_of_getLsbD_eq fun i hi => ?_
  have hentry := pc1Table_entry_not_parity ⟨56 - 1 - i, by omega⟩
  rw [pc1, pc1, getLsbD_permute _ _ hi, getLsbD_permute _ _ hi, getLsbD_clearParity, hentry, Bool.and_true]

/-- The schedule reads the key through `PC1` alone (41_key_schedule R151, R163). -/
theorem schedule_eq_of_clearParity_eq {k k' : Key} (h : clearParity k = clearParity k') :
    schedule k = schedule k' := by
  have hpc1 : pc1 k = pc1 k' := by rw [← pc1_clearParity k, h, pc1_clearParity]
  rw [schedule, schedule, keyC0, keyC0, keyD0, keyD0, hpc1]

end Sys2Proof.Machine

namespace Sys2Proof.Proofs

open Sys2Proof.Machine

/-- Settles O15: rotations add, and a whole turn changes nothing. -/
theorem rotationsCompose : Obligations.RotationsCompose := by
  refine ⟨fun v n hn => ?_, rotl28_rotl28, fun v n => ⟨rotr28_rotl28 v n, rotl28_rotr28 v n⟩⟩
  rw [rotl28_rotl28]
  exact rotl28_of_mod_eq_zero v (by omega)

/-- Settles O17: iteration `i` reads the halves after `i + 1` rotations, which add up, to a whole turn at the end. -/
theorem scheduleClosedForm : Obligations.ScheduleClosedForm :=
  ⟨getElem_schedule, halfAfter_sixteen⟩

/-- Settles O18: the reverse generation starts from the halves a whole turn brings back. -/
theorem reverseScheduleIsTheScheduleReversed : Obligations.ReverseScheduleIsTheScheduleReversed :=
  reverseSchedule_eq_reverse

/-- Settles O19: no entry of `PC1` names a parity position. -/
theorem parityBitsDoNotReachTheSchedule : Obligations.ParityBitsDoNotReachTheSchedule :=
  fun _ _ => schedule_eq_of_clearParity_eq

end Sys2Proof.Proofs
end

section
/-! PROOF. Parity bits of `KEY` never show (41_key_schedule R163): every operation of a step reads `KEY` through its
schedule, or not at all. -/

namespace Sys2Proof.Machine

/-- What an operation that does not read `KEY` makes of two such states. -/
theorem State.SameUpToParity.map {s t : State} (h : s.SameUpToParity t) {α : Type} (f : State → α)
    (hf : ∀ u : State, f { u with key := none } = f u) : f s = f t := by
  rw [← hf s, h.2, hf t]

/-- Such states have the same schedule, where they hold no key too. -/
theorem State.SameUpToParity.schedule_eq {s t : State} (h : s.SameUpToParity t) :
    schedule s.keyBits = schedule t.keyBits := by
  have hfree : s.free = t.free := h.map State.free fun _ => rfl
  refine schedule_eq_of_clearParity_eq ?_
  rw [State.keyBits, State.keyBits, ← Option.getD_map clearParity, ← Option.getD_map clearParity, h.1, hfree]

/-- The same answer to both leaves them so. -/
theorem State.SameUpToParity.respond {s t : State} (h : s.SameUpToParity t) (r : Response) :
    (s.respond r).SameUpToParity (t.respond r) :=
  ⟨h.1, congrArg (State.respond r) h.2⟩

/-- The same key loaded into both makes the keys equal. -/
theorem State.SameUpToParity.loadKey {s t : State} (h : s.SameUpToParity t) (k : Key) :
    (s.loadKey k).SameUpToParity (t.loadKey k) :=
  ⟨rfl, congrArg (fun u : State => { u.loadKey k with key := none }) h.2⟩

/-- A block command answers what the schedule makes of the block. -/
theorem State.SameUpToParity.blockCommand {s t : State} (h : s.SameUpToParity t) (b : Block) :
    (s.blockCommand 0#1 b).SameUpToParity (t.blockCommand 0#1 b) ∧
      (s.blockCommand 1#1 b).SameUpToParity (t.blockCommand 1#1 b) := by
  have hkeyv : s.keyv = t.keyv := h.map State.keyv fun _ => rfl
  cases hv : s.keyv with
  | false =>
    rw [hv] at hkeyv
    simp only [State.blockCommand_nokey hv, State.blockCommand_nokey hkeyv.symm]
    exact ⟨h.respond _, h.respond _⟩
  | true =>
    rw [hv] at hkeyv
    simp only [State.blockCommand_enc hv, State.blockCommand_enc hkeyv.symm, State.blockCommand_dec hv,
      State.blockCommand_dec hkeyv.symm, encrypt, decrypt, h.schedule_eq]
    exact ⟨h.respond _, h.respond _⟩

/-- Every command leaves them so. -/
theorem State.SameUpToParity.exec {s t : State} (h : s.SameUpToParity t) (i : Instr) :
    ∃ s' t', exec i s = .next s' ∧ exec i t = .next t' ∧ s'.SameUpToParity t' := by
  cases i with
  | enc b => exact ⟨_, _, exec_enc b s, exec_enc b t, (h.blockCommand b).1⟩
  | dec b => exact ⟨_, _, exec_dec b s, exec_dec b t, (h.blockCommand b).2⟩
  | ldkey k => exact ⟨_, _, exec_ldkey k s, exec_ldkey k t, h.loadKey k⟩
  | reserved3 d => exact ⟨_, _, exec_reserved3 d s, exec_reserved3 d t, h.respond .eIllop⟩

/-- Both accept the same word, or neither accepts one. -/
theorem State.SameUpToParity.accept {s t : State} (h : s.SameUpToParity t) :
    (s.accept = none ∧ t.accept = none) ∨
      ∃ w s' t', s.accept = some (w, s') ∧ t.accept = some (w, t') ∧ s'.SameUpToParity t' := by
  have hbusy : s.busy = t.busy := h.map State.busy fun _ => rfl
  have hroom : s.hasRoom = t.hasRoom := h.map State.hasRoom fun _ => rfl
  have hcmds : s.cmds = t.cmds := h.map State.cmds fun _ => rfl
  cases hacc : s.accept with
  | none =>
    refine .inl ⟨rfl, State.accept_eq_none.mpr ?_⟩
    rw [State.cmdReady, ← hbusy, ← hroom, ← hcmds]
    exact State.accept_eq_none.mp hacc
  | some ws =>
    obtain ⟨w, s'⟩ := ws
    obtain ⟨hidle, hhas, hword, hs'⟩ := State.accept_eq_some.mp hacc
    refine .inr ⟨w, s', { t with cmds := s'.cmds }, rfl,
      State.accept_eq_some.mpr ⟨hbusy ▸ hidle, hroom ▸ hhas, hcmds ▸ hword, rfl⟩, ?_⟩
    rw [hs']
    exact ⟨h.1, congrArg (fun u : State => { u with cmds := s'.cmds }) h.2⟩

/-- A step completes the block in flight of both, runs the same command on both, or leaves both waiting. -/
theorem State.SameUpToParity.step {s t : State} (h : s.SameUpToParity t) :
    ∃ s' t', step s = .next s' ∧ step t = .next t' ∧ s'.SameUpToParity t' := by
  have hbusy : s.busy = t.busy := h.map State.busy fun _ => rfl
  cases hb : s.busy with
  | true =>
    refine ⟨_, _, step_busy hb, step_busy (hbusy ▸ hb), ?_⟩
    rw [State.completeBlock_eq, State.completeBlock_eq, h.map State.work fun _ => rfl]
    exact h.respond _
  | false =>
    obtain ⟨hsacc, htacc⟩ | ⟨w, u, v, hsacc, htacc, huv⟩ := h.accept
    · exact ⟨s, t, step_wait hb hsacc, step_wait (hbusy ▸ hb) htacc, h⟩
    · rw [step_accept hsacc, step_accept htacc]
      exact huv.exec (decode w)

end Sys2Proof.Machine

namespace Sys2Proof.Proofs

open Sys2Proof.Machine

/-- Settles O56: the schedules are equal, and nothing else a step reads or writes tells the states apart. -/
theorem parityBitsNeverShow : Obligations.ParityBitsNeverShow := by
  intro s t s' t' h hs ht
  obtain ⟨u, v, hu, hv, huv⟩ := h.step
  obtain rfl : u = s' := Host.Outcome.next.inj (hu.symm.trans hs)
  obtain rfl : v = t' := Host.Outcome.next.inj (hv.symm.trans ht)
  exact huv

end Sys2Proof.Proofs
end

section
/-! PROOF. The micro-steps of a block command (43_cipher R212), and the halves `C` and `D` of a block in flight
(10_state R27). -/

namespace Sys2Proof.Machine

/-! ### The halves of the key schedule -/

/-- The halves `C`, `D` of these registers are those of `key` after the iterations behind them. -/
def Work.Tracks (key : Key) (w : Work) : Prop :=
  w.c = halfAfter (keyC0 key) w.iterations ∧ w.d = halfAfter (keyD0 key) w.iterations

theorem State.keyHalvesTrack_iff (s : State) :
    s.KeyHalvesTrack ↔ (s.busy = true → s.work.Tracks s.keyBits) := Iff.rfl

theorem Work.iterations_enc {w : Work} (hd : w.dir = 0#1) : w.iterations = w.rc.toNat := if_pos hd

theorem Work.iterations_dec {w : Work} (hd : w.dir ≠ 0#1) : w.iterations = 16 - w.rc.toNat := if_neg hd

/-- A block starts with the halves of the compressed key: none rotated for `ENC`, all of the turn for `DEC`. -/
theorem Work.tracks_start (dir : BitVec 1) (b : Block) (key : Key) : (Work.start dir b key).Tracks key := by
  by_cases hd : dir = 0#1
  · have hiter : (Work.start dir b key).iterations = 0 := Work.iterations_enc hd
    rw [Work.Tracks, hiter, halfAfter_zero, halfAfter_zero]
    exact ⟨rfl, rfl⟩
  · have hiter : (Work.start dir b key).iterations = 16 := Work.iterations_dec hd
    rw [Work.Tracks, hiter, halfAfter_sixteen, halfAfter_sixteen]
    exact ⟨rfl, rfl⟩

/-- The iteration of the next round is the one that leads on from the iterations behind `C` and `D` for `ENC`, and the
last of them for `DEC`. -/
theorem Work.iterations_iteration {w : Work} (hrc : w.rc.toNat < 16) :
    if w.dir = 0#1 then w.iterations = w.iteration ∧ w.round.iterations = w.iteration + 1
    else w.iterations = w.iteration + 1 ∧ w.round.iterations = w.iteration := by
  split
  · next hd =>
    rw [Work.iterations_enc hd, Work.iterations_enc (w := w.round) hd, Work.round_rc_toNat hrc,
      Work.iteration_enc hrc hd]
    exact ⟨rfl, rfl⟩
  · next hd =>
    rw [Work.iterations_dec hd, Work.iterations_dec (w := w.round) hd, Work.round_rc_toNat hrc,
      Work.iteration_dec hrc hd]
    omega

/-- The rotation of iteration `i` leads from the half after `i` iterations to the next. -/
theorem rotl28_shiftAmount (v : KeyHalf) (i : Fin 16) :
    rotl28 (halfAfter v i) (shiftAmount i) = halfAfter v (i + 1) := by
  have hlen : (i : Nat) < shiftTable.amounts.length := i.isLt
  rw [halfAfter_succ v i.isLt, List.getD_eq_getElem _ 0 hlen, shiftAmount]

/-- And the right rotation leads back (41_key_schedule R161). -/
theorem rotr28_shiftAmount (v : KeyHalf) (i : Fin 16) :
    rotr28 (halfAfter v (i + 1)) (shiftAmount i) = halfAfter v i := by
  rw [← rotl28_shiftAmount, rotr28_rotl28]

/-- The round uses the subkey of its iteration, and leaves the halves tracking the schedule (41_key_schedule R157,
R161). -/
theorem Work.Tracks.round {w : Work} {key : Key} (h : w.Tracks key) (hrc : w.rc.toNat < 16) :
    w.nextSubkey.1 = (schedule key)[w.iteration] ∧ w.round.Tracks key := by
  obtain ⟨hc, hd⟩ := h
  have hiter := Work.iterations_iteration hrc
  by_cases hdir : w.dir = 0#1
  · rw [if_pos hdir] at hiter
    obtain ⟨hbehind, hnext⟩ := hiter
    rw [hbehind] at hc hd
    rw [getElem_schedule, Work.Tracks, hnext]
    simp [Work.nextSubkey, hdir, hc, hd, rotl28_shiftAmount]
  · rw [if_neg hdir] at hiter
    obtain ⟨hbehind, hnext⟩ := hiter
    rw [hbehind] at hc hd
    rw [getElem_schedule, Work.Tracks, hnext]
    simp [Work.nextSubkey, hdir, hc, hd, rotr28_shiftAmount]

/-- Every micro-step leaves the halves of a block in flight tracking the schedule. -/
theorem State.KeyHalvesTrack.microStep {s : State} (h : s.KeyHalvesTrack) : (microStep s).KeyHalvesTrack := by
  obtain ⟨hbusy, hrc, hm⟩ | ⟨-, -, hm⟩ | ⟨w, s', dir, b, -, -, hm⟩ | ⟨-, hstep⟩ := microStep_cases s
  · rw [hm, State.keyHalvesTrack_iff]
    exact fun _ => ((s.keyHalvesTrack_iff.mp h hbusy).round hrc).2
  · rw [hm]
    exact fun hbusy => absurd hbusy Bool.false_ne_true
  · rw [hm, State.keyHalvesTrack_iff]
    exact fun _ => Work.tracks_start dir b s'.keyBits
  · exact fun hbusy => absurd hbusy (Bool.eq_false_iff.mp (step_idle hstep))

/-! ### A block command, micro-step by micro-step -/

theorem microSteps_succ (n : Nat) (s : State) : microSteps (n + 1) s = microSteps n (microStep s) := rfl

/-- The rounds of a block in flight leave what the block command will answer. -/
theorem State.completeBlock_roundBlock {s : State} (hrc : s.work.rc.toNat < 16) :
    s.roundBlock.completeBlock = s.completeBlock := by
  rw [State.completeBlock_eq, State.completeBlock_eq, State.roundBlock_work, Work.round_complete hrc,
    State.roundBlock, State.respond_setWork]

/-- After sixteen rounds the finish is all that is left of the block. -/
theorem State.finishBlock_eq_completeBlock {s : State} (hrc : 16 ≤ s.work.rc.toNat) :
    s.finishBlock = s.completeBlock := by
  rw [State.completeBlock, Work.complete, Nat.sub_eq_zero_of_le hrc, Work.rounds]

/-- The micro-steps left of a block in flight, one for each round and the finish, complete it. -/
theorem microSteps_completeBlock {s : State} (hbusy : s.busy = true) (hrc : s.work.rc.toNat ≤ 16) :
    microSteps (17 - s.work.rc.toNat) s = s.completeBlock := by
  induction hn : 16 - s.work.rc.toNat generalizing s with
  | zero =>
    have hlast : 17 - s.work.rc.toNat = 0 + 1 := by omega
    rw [hlast, microSteps_succ, microSteps, microStep_finish hbusy (by omega),
      State.finishBlock_eq_completeBlock (by omega)]
  | succ n ih =>
    have hlt : s.work.rc.toNat < 16 := by omega
    have hround : s.roundBlock.work.rc.toNat = s.work.rc.toNat + 1 := Work.round_rc_toNat hlt
    have hleft : 17 - s.work.rc.toNat = (17 - s.roundBlock.work.rc.toNat) + 1 := by omega
    rw [hleft, microSteps_succ, microStep_round hbusy hlt, ih (s := s.roundBlock) hbusy (by omega) (by omega),
      State.completeBlock_roundBlock hlt]

/-- While rounds are left, each micro-step is one and leaves the block in flight. -/
theorem microSteps_inFlight {s : State} (hbusy : s.busy = true) {n : Nat} (hn : s.work.rc.toNat + n ≤ 16) :
    (microSteps n s).busy = true ∧ (microSteps n s).work.rc.toNat = s.work.rc.toNat + n := by
  induction n generalizing s with
  | zero => exact ⟨hbusy, rfl⟩
  | succ n ih =>
    have hlt : s.work.rc.toNat < 16 := by omega
    have hround : s.roundBlock.work.rc.toNat = s.work.rc.toNat + 1 := Work.round_rc_toNat hlt
    obtain ⟨hflight, hcount⟩ := ih (s := s.roundBlock) hbusy (by omega)
    rw [microSteps_succ, microStep_round hbusy hlt]
    exact ⟨hflight, by omega⟩

/-- The acceptance of a block command with a key loaded is its `start`, and the whole step completes what it starts. -/
theorem microStep_start {s s' : State} {w : CmdWord} (hacc : s.accept = some (w, s')) (hst : s'.Starts (decode w)) :
    microStep s = s'.startBlock (cmdWordDir w) (cmdWordData w) ∧ step s = .next (microStep s).completeBlock := by
  obtain ⟨hbegin, hexec⟩ := hst.beginCommand_eq
  rw [op_decode, data_decode, ← cmdWordDir_eq] at hbegin
  rw [step_accept hacc, microStep_accept hacc]
  exact ⟨hbegin, hexec⟩

/-- The round that follows `RC` = `n` of a block in flight uses `K[n+1]` for `ENC` and `K[17-(n+1)]` for `DEC`
(43_cipher R205, R206). -/
theorem Work.Tracks.nextSubkey_eq {w : Work} {key : Key} (h : w.Tracks key) {n : Fin 16} (hn : w.rc.toNat = n) :
    w.nextSubkey.1 = if w.dir = 0#1 then (schedule key)[n] else (schedule key)[15 - n.val] := by
  have hrc : w.rc.toNat < 16 := hn ▸ n.isLt
  rw [(h.round hrc).1]
  split
  · next hd =>
    have hi : (w.iteration : Nat) = n := by rw [Work.iteration_enc hrc hd, hn]
    simp only [Fin.getElem_fin, hi]
  · next hd =>
    have hi : (w.iteration : Nat) = 15 - n := by rw [Work.iteration_dec hrc hd, hn]
    simp only [Fin.getElem_fin, hi]

end Sys2Proof.Machine

namespace Sys2Proof.Proofs

open Sys2Proof.Machine

/-- Settles O58: a start takes the halves of the compressed key, a round rotates them on for `ENC` and back for `DEC`,
and every other micro-step leaves no block in flight. -/
theorem microStepKeepsKeyHalves : Obligations.MicroStepKeepsKeyHalves := fun _ _ htrack => htrack.microStep

/-- Settles O57: the micro-steps left of a block in flight complete it, by induction on its rounds left, and a start
leaves sixteen. -/
theorem stepIsStartSixteenRoundsFinish : Obligations.StepIsStartSixteenRoundsFinish := by
  refine ⟨fun s s' w _ hacc hv hblock => ?_, fun s n hbusy htrack hrc => ?_, fun s hbusy hrc => ?_,
    fun s s' w _ hacc hwhole => ?_, fun s hbusy hrc => ?_⟩
  · obtain ⟨hstart, hstep⟩ := microStep_start hacc ⟨hv, hblock⟩
    have hbusy : (microStep s).busy = true := by rw [hstart, State.startBlock_busy]
    have hrc : (microStep s).work.rc.toNat = 0 := by rw [hstart, State.startBlock_work, Work.start_rc]; rfl
    refine ⟨?_, ?_, fun n hn => ?_⟩
    · rw [hstart]
      exact ⟨rfl, rfl, rfl, hi32_append_lo32 (ip64 (cmdWordData w))⟩
    · rw [hstep, ← microSteps_completeBlock hbusy (by omega), hrc]
      rfl
    · obtain ⟨hflight, hcount⟩ := microSteps_inFlight hbusy (n := n) (by omega)
      rw [microSteps_succ]
      exact ⟨hflight, by omega⟩
  · have hlt : s.work.rc.toNat < 16 := hrc ▸ n.isLt
    have hsubkey := (s.keyHalvesTrack_iff.mp htrack hbusy).nextSubkey_eq hrc
    rw [microStep_round hbusy hlt]
    refine ⟨hbusy, ?_, rfl, rfl, ?_⟩
    · rw [State.roundBlock_work, Work.round_rc_toNat hlt, hrc]
    · rw [State.roundBlock_work, Work.round_r, hsubkey, State.roundKeySet]
  · have hdone : 16 ≤ s.work.rc.toNat := by rw [hrc]; decide
    rw [microStep_finish hbusy hdone]
    exact ⟨rfl, rfl⟩
  · have hst : ¬ s'.Starts (decode w) := by
      rintro ⟨hv, b, hb⟩
      obtain hnokey | hother := hwhole
      · exact Bool.false_ne_true (hnokey ▸ hv)
      · exact hb.elim (hother b).1 (hother b).2
    rw [step_accept hacc, microStep_accept hacc, exec_of_not_starts hst]
  · rw [step_busy hbusy, microSteps_completeBlock hbusy hrc]

end Sys2Proof.Proofs
end

section
/-! PROOF. The overlapped engine answers as the serial one (43_cipher R213, 20_memory R80, R82): a slot's response is
fixed when its command is accepted, and no round changes it. -/

namespace Sys2Proof.Machine

/-- A round of a command in flight leaves what it will answer. -/
@[simp] theorem Slot.response_advance (x : Slot) : x.advance.response = x.response := by
  cases x with
  | block w =>
    rw [Slot.advance]
    split
    · next hrc => rw [Slot.response, Slot.response, Work.round_complete hrc]
    · rfl
  | answered r => rfl

/-- So the responses in flight stay whatever slot advances. -/
theorem map_response_modify_advance (slots : List Slot) (j : Nat) :
    (slots.modify j Slot.advance).map Slot.response = slots.map Slot.response := by
  refine List.ext_getElem (by simp) fun n _ _ => ?_
  rw [List.getElem_map, List.getElem_map, List.getElem_modify]
  split <;> simp

/-- A block command accepted will answer as the reference says, under the key held when it is accepted. -/
theorem Pipe.response_blockSlot {p : Pipe} (hheld : p.keyv = p.key.isSome) (b : Block) :
    (p.blockSlot 0#1 b).response = answer p.key (.enc b) ∧ (p.blockSlot 1#1 b).response = answer p.key (.dec b) := by
  cases hk : p.key with
  | none => simp [Pipe.blockSlot, hheld, hk, Slot.response, answer]
  | some k =>
    simp [Pipe.blockSlot, hheld, hk, Slot.response, answer, Pipe.keyBits, Work.result_start_enc,
      Work.result_start_dec]

/-- An acceptance adds one slot, which will give the reference's response, and sets the key register as the reference
says; the responses delivered stay. -/
theorem Pipe.accept_answers {p p' : Pipe} {depth : Nat} {i : Instr} (hheld : p.keyv = p.key.isSome)
    (h : p.accept depth i = some p') :
    p'.rsps = p.rsps ∧ p'.slots.map Slot.response = p.slots.map Slot.response ++ [answer p.key i] ∧
      (p'.key, p'.keyv) = (keyAfter p.key (.command (encode i)), (keyAfter p.key (.command (encode i))).isSome) := by
  unfold Pipe.accept at h
  split at h
  · cases i with
    | enc b =>
      obtain rfl := Option.some.inj h
      simp [keyAfter, hheld, (Pipe.response_blockSlot hheld b).1]
    | dec b =>
      obtain rfl := Option.some.inj h
      simp [keyAfter, hheld, (Pipe.response_blockSlot hheld b).2]
    | ldkey k =>
      obtain ⟨hempty, rfl⟩ : p.slots = [] ∧ _ := by simpa using h
      simp [hempty, keyAfter, Slot.response, answer]
    | reserved3 d =>
      obtain rfl := Option.some.inj h
      simp [keyAfter, hheld, Slot.response, answer]
  · cases h

/-- A retirement delivers the response of the oldest slot and changes nothing else. -/
theorem Pipe.retire_eq {p p' : Pipe} (h : p.retire = some p') :
    ∃ x rest, p.slots = x :: rest ∧ p' = { p with slots := rest, rsps := p.rsps ++ [x.response] } := by
  unfold Pipe.retire at h
  split at h
  · cases h
  · next r rest hslots => exact ⟨_, rest, hslots, (Option.some.inj h).symm⟩
  · next w rest hslots =>
    split at h
    · next hrc =>
      have hdone : w.complete = w := by rw [Work.complete, hrc, Nat.sub_self, Work.rounds]
      refine ⟨_, rest, hslots, ?_⟩
      rw [Slot.response, hdone]
      exact (Option.some.inj h).symm
    · cases h

/-- The serial engine that runs the command accepted matches again. -/
theorem Pipe.Matches.accept {p p' : Pipe} {s : State} (hm : p.Matches s) (hheld : s.KeyHeld) {depth : Nat} {i : Instr}
    (h : p.accept depth i = some p') : ∃ t, exec i s = .next t ∧ p'.Matches t := by
  obtain ⟨hkey, hkeyv, hrsps⟩ := hm
  have hpheld : p.keyv = p.key.isSome := by rw [← hkeyv, ← hkey, hheld]
  obtain ⟨hdelivered, hslots, harch⟩ := Pipe.accept_answers hpheld h
  obtain ⟨t, hexec, htrsps, htarch⟩ := exec_arch_rsps hheld i
  rw [hkey, ← harch] at htarch
  obtain ⟨htkey, htkeyv⟩ := Prod.mk.inj htarch
  refine ⟨t, hexec, htkey, htkeyv, ?_⟩
  rw [htrsps, hrsps, hdelivered, hslots, hkey, List.append_assoc]

/-- A round leaves the engines matching. -/
theorem Pipe.Matches.advance {p : Pipe} {s : State} (hm : p.Matches s) (j : Nat) :
    Pipe.Matches { p with slots := p.slots.modify j Slot.advance } s := by
  obtain ⟨hkey, hkeyv, hrsps⟩ := hm
  exact ⟨hkey, hkeyv, by rw [hrsps, map_response_modify_advance]⟩

/-- A response delivered leaves the in-order list of responses as it was. -/
theorem Pipe.Matches.retire {p p' : Pipe} {s : State} (hm : p.Matches s) (h : p.retire = some p') : p'.Matches s := by
  obtain ⟨hkey, hkeyv, hrsps⟩ := hm
  obtain ⟨x, rest, hslots, rfl⟩ := Pipe.retire_eq h
  exact ⟨hkey, hkeyv, by rw [hrsps, hslots, List.map_cons, List.append_assoc, List.singleton_append]⟩

end Sys2Proof.Machine

namespace Sys2Proof.Proofs

open Sys2Proof.Machine

/-- Settles O60: an acceptance adds the response the serial engine gives the command, a round changes no response to
come, and a retirement moves the oldest of them to those delivered. -/
theorem overlappedEngineAnswersSerially : Obligations.OverlappedEngineAnswersSerially := by
  intro depth m p p' s hm hheld hmove
  cases m with
  | accept i =>
    refine ⟨fun i' hi => ?_, fun hne => absurd rfl (hne i)⟩
    obtain rfl := PipeMove.accept.inj hi
    exact hm.accept hheld hmove
  | advance j =>
    obtain rfl := Option.some.inj hmove
    exact ⟨fun i hi => (nomatch hi), fun _ => hm.advance j⟩
  | retire => exact ⟨fun i hi => (nomatch hi), fun _ => hm.retire hmove⟩

end Sys2Proof.Proofs
end

section
/-! PROOF. A printed operand reads back (30_encoding section 7, 00_scope section 5). -/

namespace Sys2Proof.Machine

/-- The digit printed for four bits reads as their value. -/
@[simp] theorem hexDigit_hexChar : ∀ v : BitVec 4, hexDigit (hexChar v) = some v.toNat := by decide

/-- Digits read one after another: the value of the first is carried on into the second. -/
theorem hexDigits_append (cs ds : List Char) (acc : Nat) :
    hexDigits (cs ++ ds) acc = (hexDigits cs acc).bind (hexDigits ds) := by
  induction cs generalizing acc with
  | nil => rfl
  | cons c cs ih =>
    rw [List.cons_append, hexDigits, hexDigits]
    cases hexDigit c with
    | none => rfl
    | some v => exact ih _

theorem hexDigits_hexChar (v : BitVec 4) (acc : Nat) : hexDigits [hexChar v] acc = some (16 * acc + v.toNat) := by
  simp [hexDigits]

/-- The first `n` printed digits of a word read as its value above the `16 - n` digits that follow. -/
theorem hexDigits_hexText_prefix (x : BitVec 64) {n : Nat} (hn : n ≤ 16) :
    hexDigits ((List.range n).map fun i => hexChar (x.extractLsb' (60 - 4 * i) 4)) 0 =
      some (x.toNat >>> (64 - 4 * n)) := by
  induction n with
  | zero => simp [hexDigits, Nat.shiftRight_eq_div_pow, Nat.div_eq_of_lt x.isLt]
  | succ n ih =>
    have hprev : 64 - 4 * n = 60 - 4 * n + 4 := by omega
    have hnext : 64 - 4 * (n + 1) = 60 - 4 * n := by omega
    rw [List.range_succ, List.map_append, hexDigits_append, ih (by omega), Option.bind_some, List.map_singleton,
      hexDigits_hexChar, BitVec.extractLsb'_toNat, hprev, hnext, Nat.shiftRight_add,
      Nat.shiftRight_eq_div_pow _ 4, Nat.div_add_mod]

theorem length_hexText (x : BitVec 64) : (hexText x).length = 16 := by
  rw [hexText, List.length_map, List.length_range]

/-- The sixteen digits of a word read as its value. -/
theorem hexDigits_hexText (x : BitVec 64) : hexDigits (hexText x) 0 = some x.toNat :=
  hexDigits_hexText_prefix x (n := 16) le_rfl

/-- A literal of `n` digits reads as its digits do. -/
theorem hexLiteral_of_length {n : Nat} {digits : List Char} (h : digits.length = n) :
    hexLiteral n (['0', 'x'] ++ digits) = hexDigits digits 0 :=
  if_pos h

end Sys2Proof.Machine

namespace Sys2Proof.Proofs

open Sys2Proof.Machine

/-- Settles O8: by induction on the digits read, which are the top bits of the word. -/
theorem printedOperandsReadBack : Obligations.PrintedOperandsReadBack := by
  intro x
  rw [operandLiteral, hexLiteral_of_length (length_hexText x), hexDigits_hexText, Option.map_some,
    BitVec.ofNat_toNat, BitVec.setWidth_eq]

end Sys2Proof.Proofs
end

section
/-! PROOF. The laws of the block function (42_round_function section 3, 43_cipher sections 3 and 5): the inverse, the
complement, and the weak keys. -/

namespace Sys2Proof.Machine

/-! ### The inverse -/

theorem hi32_append (h l : Half) : hi32 (h ++ l) = h := BitVec.extractLsb'_append_eq_left

theorem lo32_append (h l : Half) : lo32 (h ++ l) = l := BitVec.extractLsb'_append_eq_right

/-- The split undoes the join, but for the order of the halves, which the join turns round (43_cipher R203). -/
theorem splitBlock_joinBlock (lr : Half × Half) : splitBlock (joinBlock lr) = lr.swap := by
  rw [splitBlock, joinBlock, ip64_fp64, hi32_append, lo32_append, Prod.swap]

theorem joinBlock_swap_splitBlock (b : Block) : joinBlock (splitBlock b).swap = b := by
  rw [joinBlock, splitBlock, Prod.swap, hi32_append_lo32, fp64_ip64]

theorem feistelRounds_cons (k : Subkey) (ks : List Subkey) (lr : Half × Half) :
    feistelRounds (k :: ks) lr = feistelRounds ks (feistelRound lr k) := rfl

theorem feistelRounds_concat (ks : List Subkey) (k : Subkey) (lr : Half × Half) :
    feistelRounds (ks ++ [k]) lr = feistelRound (feistelRounds ks lr) k := List.foldl_append

/-- A round on the swapped halves undoes the round: the same XOR twice (43_cipher section 3). -/
theorem feistelRound_swap_feistelRound (lr : Half × Half) (k : Subkey) :
    feistelRound (feistelRound lr k).swap k = lr.swap := by
  simp [feistelRound, Prod.swap]

/-- The rounds on the swapped halves, with the keys in the opposite order, undo the rounds. -/
theorem feistelRounds_reverse_swap (ks : List Subkey) (lr : Half × Half) :
    feistelRounds ks.reverse (feistelRounds ks lr).swap = lr.swap := by
  induction ks generalizing lr with
  | nil => rfl
  | cons k ks ih =>
    rw [List.reverse_cons, feistelRounds_concat, feistelRounds_cons, ih, feistelRound_swap_feistelRound]

/-- The block function with the keys in the opposite order undoes it. -/
theorem crypt_crypt_reverse (b : Block) (ks : RoundKeySet) : crypt (crypt b ks) ks.reverse = b := by
  rw [crypt, crypt, splitBlock_joinBlock, Vector.toList_reverse, feistelRounds_reverse_swap,
    joinBlock_swap_splitBlock]

theorem decrypt_encrypt (b : Block) (key : Key) : decrypt (encrypt b key) key = b :=
  crypt_crypt_reverse b (schedule key)

theorem encrypt_decrypt (b : Block) (key : Key) : encrypt (decrypt b key) key = b := by
  simpa [encrypt, decrypt] using crypt_crypt_reverse b (schedule key).reverse

/-! ### The complement -/

/-- Complementing both sides of an XOR leaves it. -/
theorem not_xor_not {n : Nat} (a b : BitVec n) : ~~~a ^^^ ~~~b = a ^^^ b := by
  rw [← BitVec.not_xor_left, ← BitVec.not_xor_right, BitVec.not_not]

/-- The round function reads its arguments through the mixed key alone (42_round_function section 3). -/
theorem roundF_eq_of_mix_eq {r r' : Half} {k k' : Subkey} (h : e48 r ^^^ k = e48 r' ^^^ k') :
    roundF r k = roundF r' k' := by
  rw [roundF, roundF, h]

/-- Complementing both arguments leaves the mixed key. -/
theorem roundF_not (r : Half) (k : Subkey) : roundF (~~~r) (~~~k) = roundF r k := by
  have hexpand : e48 (~~~r) = ~~~(e48 r) := permute_not eTable r
  exact roundF_eq_of_mix_eq (by rw [hexpand, not_xor_not])

theorem rotl28_not (v : KeyHalf) (n : Nat) : rotl28 (~~~v) n = ~~~(rotl28 v n) := by
  refine BitVec.eq_of_getLsbD_eq fun i hi => ?_
  rw [getLsbD_rotl28 _ _ hi, BitVec.getLsbD_not, BitVec.getLsbD_not, getLsbD_rotl28 _ _ hi, decide_eq_true hi,
    decide_eq_true (Nat.mod_lt _ (by omega))]

theorem subkeyOf_not (c d : KeyHalf) : subkeyOf (~~~c) (~~~d) = ~~~(subkeyOf c d) := by
  rw [subkeyOf, ← BitVec.not_append]
  exact permute_not pc2Table (c ++ d)

theorem scheduleFrom_not (amounts : List Nat) (c d : KeyHalf) :
    scheduleFrom amounts (~~~c) (~~~d) = (scheduleFrom amounts c d).map (~~~·) := by
  induction amounts generalizing c d with
  | nil => rfl
  | cons n rest ih => rw [scheduleFrom, scheduleFrom, rotl28_not, rotl28_not, subkeyOf_not, ih, List.map_cons]

/-- The halves of a value's complement are the complements of its halves. -/
theorem halves_not {n : Nat} (x : BitVec (n + n)) :
    (~~~x).extractLsb' n n = ~~~(x.extractLsb' n n) ∧ (~~~x).extractLsb' 0 n = ~~~(x.extractLsb' 0 n) := by
  have hsplit : ~~~x = ~~~(x.extractLsb' n n) ++ ~~~(x.extractLsb' 0 n) := by
    rw [← BitVec.not_append, extractLsb'_halves]
  rw [hsplit]
  exact ⟨BitVec.extractLsb'_append_eq_left, BitVec.extractLsb'_append_eq_right⟩

/-- The halves of the complemented key are the complements. -/
theorem keyHalves_not (key : Key) : keyC0 (~~~key) = ~~~(keyC0 key) ∧ keyD0 (~~~key) = ~~~(keyD0 key) := by
  have hpc1 : pc1 (~~~key) = ~~~(pc1 key) := permute_not pc1Table key
  rw [keyC0, keyD0, hpc1]
  exact halves_not (n := 28) (pc1 key)

/-- The complemented key has the complemented subkeys. -/
theorem schedule_not (key : Key) : schedule (~~~key) = (schedule key).map (~~~·) := by
  obtain ⟨hc, hd⟩ := keyHalves_not key
  rw [← Vector.toList_inj, Vector.toList_map, toList_schedule, toList_schedule, hc, hd, scheduleFrom_not]

/-- Both halves complemented. -/
def notHalves (lr : Half × Half) : Half × Half := (~~~lr.1, ~~~lr.2)

theorem splitBlock_not (b : Block) : splitBlock (~~~b) = notHalves (splitBlock b) := by
  have hip : ip64 (~~~b) = ~~~(ip64 b) := permute_not ipTable b
  obtain ⟨hhi, hlo⟩ := halves_not (n := 32) (ip64 b)
  rw [splitBlock, hip]
  exact Prod.ext hhi hlo

theorem joinBlock_notHalves (lr : Half × Half) : joinBlock (notHalves lr) = ~~~(joinBlock lr) := by
  rw [joinBlock, notHalves, ← BitVec.not_append]
  exact permute_not fpTable (lr.2 ++ lr.1)

/-- The round function does not see the complement, so it passes through the XOR once. -/
theorem feistelRound_not (lr : Half × Half) (k : Subkey) :
    feistelRound (notHalves lr) (~~~k) = notHalves (feistelRound lr k) := by
  simp only [feistelRound, notHalves, roundF_not, BitVec.not_xor_left]

theorem feistelRounds_not (ks : List Subkey) (lr : Half × Half) :
    feistelRounds (ks.map (~~~·)) (notHalves lr) = notHalves (feistelRounds ks lr) := by
  induction ks generalizing lr with
  | nil => rfl
  | cons k ks ih => rw [List.map_cons, feistelRounds_cons, feistelRounds_cons, feistelRound_not, ih]

/-- Complementing the block and every subkey complements the result. -/
theorem crypt_not (b : Block) (ks : RoundKeySet) : crypt (~~~b) (ks.map (~~~·)) = ~~~(crypt b ks) := by
  rw [crypt, crypt, Vector.toList_map, splitBlock_not, feistelRounds_not, joinBlock_notHalves]

/-! ### Weak keys -/

/-- Equal subkeys are their own reverse, so both directions are one function. -/
theorem encrypt_eq_decrypt_of_schedule_replicate {key : Key} {k : Subkey}
    (h : schedule key = Vector.replicate 16 k) (b : Block) : encrypt b key = decrypt b key := by
  rw [encrypt, decrypt, h, Vector.reverse_replicate]

/-- Where one key has the subkeys of another in reverse, encrypting under it is decrypting under the other. -/
theorem encrypt_eq_decrypt_of_schedule_reverse {key key' : Key}
    (h : (schedule key).toList = (schedule key').toList.reverse) (b : Block) : encrypt b key = decrypt b key' := by
  rw [encrypt, decrypt, Vector.toList_inj.mp (h.trans Vector.toList_reverse.symm)]

/-- The schedules of the weak keys the spec names, and of the semi-weak pair (43_cipher section 5). -/
theorem schedule_weakKeys :
    schedule 0x0000000000000000#64 = Vector.replicate 16 0x000000000000#48 ∧
    schedule 0xFEFEFEFEFEFEFEFE#64 = Vector.replicate 16 0xFFFFFFFFFFFF#48 ∧
    schedule 0x1F1F1F1F0E0E0E0E#64 = Vector.replicate 16 0x000000FFFFFF#48 ∧
    schedule 0xE0E0E0E0F1F1F1F1#64 = Vector.replicate 16 0xFFFFFF000000#48 := by
  decide +kernel

theorem schedule_semiWeakPair :
    (schedule 0x01FE01FE01FE01FE#64).toList = (schedule 0xFE01FE01FE01FE01#64).toList.reverse := by
  decide +kernel

end Sys2Proof.Machine

namespace Sys2Proof.Proofs

open Sys2Proof.Machine

/-- Settles O25: the mixed key is all the round function reads, and the two complements cancel in it. -/
theorem roundFunctionSeesOnlyTheMixedKey : Obligations.RoundFunctionSeesOnlyTheMixedKey :=
  ⟨fun _ _ _ _ h => roundF_eq_of_mix_eq h, roundF_not⟩

/-- Settles O27: the rounds with the keys in the opposite order undo the rounds, and the wrapper undoes itself. -/
theorem decryptionAndEncryptionAreInverse : Obligations.DecryptionAndEncryptionAreInverse :=
  fun b key => ⟨decrypt_encrypt b key, encrypt_decrypt b key⟩

/-- Settles O28: the complement passes through the schedule, the wrapper and every round. -/
theorem complementationOfCipher : Obligations.ComplementationOfCipher := by
  refine fun b key => ⟨?_, ?_⟩
  · rw [encrypt, encrypt, schedule_not, crypt_not]
  · rw [decrypt, decrypt, schedule_not, ← Vector.map_reverse, crypt_not]

/-- Settles O29: equal subkeys are their own reverse; a parity variant has the schedule of the key it varies, and the
schedules of the keys named are evaluated. -/
theorem weakKeysMakeOneFunction : Obligations.WeakKeysMakeOneFunction := by
  obtain ⟨hzeros, hones, hzeroOne, honeZero⟩ := schedule_weakKeys
  have hpair := schedule_semiWeakPair
  have hpair' : (schedule 0xFE01FE01FE01FE01#64).toList = (schedule 0x01FE01FE01FE01FE#64).toList.reverse := by
    rw [hpair, List.reverse_reverse]
  refine ⟨fun key k b h => ?_, fun key h => ?_, fun key h => ?_, fun key h => ?_, fun key h => ?_, hpair, fun b =>
    ⟨encrypt_eq_decrypt_of_schedule_reverse hpair b, encrypt_eq_decrypt_of_schedule_reverse hpair' b⟩⟩
  · have hone := encrypt_eq_decrypt_of_schedule_replicate h
    exact ⟨hone b, by rw [hone (encrypt b key), decrypt_encrypt]⟩
  · exact (schedule_eq_of_clearParity_eq h).trans hzeros
  · exact (schedule_eq_of_clearParity_eq h).trans hones
  · exact (schedule_eq_of_clearParity_eq h).trans hzeroOne
  · exact (schedule_eq_of_clearParity_eq h).trans honeZero

end Sys2Proof.Proofs
end

section
/-! PROOF. What the commands answer and leave (43_cipher R207 to R210, 20_memory sections 5 and 7). -/

namespace Sys2Proof.Machine

/-! ### Block commands -/

theorem State.respond_arch (s : State) (r : Response) : (s.respond r).arch = s.arch := rfl

/-- With a key loaded, `ENC` answers the ciphertext under it. -/
theorem exec_enc_of_keyv {s : State} (hv : s.keyv = true) (b : Block) :
    exec (.enc b) s = .next (s.respond (.ok (encrypt b s.keyBits))) := by
  rw [exec_enc, State.blockCommand_enc hv]

/-- With a key loaded, `DEC` answers the plaintext under it. -/
theorem exec_dec_of_keyv {s : State} (hv : s.keyv = true) (b : Block) :
    exec (.dec b) s = .next (s.respond (.ok (decrypt b s.keyBits))) := by
  rw [exec_dec, State.blockCommand_dec hv]

theorem bijective_decrypt (key : Key) : Function.Bijective fun b => decrypt b key :=
  Function.bijective_iff_has_inverse.mpr
    ⟨fun b => encrypt b key, fun b => encrypt_decrypt b key, fun b => decrypt_encrypt b key⟩

/-! ### Every command, under `KeyHeld` -/

/-- The response to a command and the key register after it are the reference's, and `KeyHeld` stays. -/
theorem exec_answer {i : Instr} {s t : State} (hheld : s.KeyHeld) (h : exec i s = .next t) :
    t.rsps = s.rsps ++ [answer s.key i] ∧ t.key = keyAfter s.key (.command (encode i)) ∧ t.KeyHeld := by
  obtain ⟨u, hu, hursps, huarch⟩ := exec_arch_rsps hheld i
  obtain rfl : u = t := Host.Outcome.next.inj (hu.symm.trans h)
  obtain ⟨hkey, hkeyv⟩ := Prod.mk.inj huarch
  exact ⟨hursps, hkey, hkeyv.trans (congrArg Option.isSome hkey).symm⟩

/-- A state with `KeyHeld` has the architectural state its key register says. -/
theorem State.KeyHeld.arch_eq {s : State} (hheld : s.KeyHeld) : s.arch = (s.key, s.key.isSome) :=
  congrArg (Prod.mk s.key) hheld

/-- A command repeated finds in `KEY` what it left there, and is answered as the first time. -/
theorem keyAfter_answer_repeat (i : Instr) (key : Option Key) :
    keyAfter (keyAfter key (.command (encode i))) (.command (encode i)) = keyAfter key (.command (encode i)) ∧
      answer (keyAfter key (.command (encode i))) i = answer key i := by
  cases i <;> simp [keyAfter, answer]

/-! ### Streams with a key load -/

/-- The answers to a stream laid behind another are given under the key the first one leaves. -/
theorem streamAnswers_append (es fs : List HostEvent) (key : Option Key) :
    streamAnswers key (es ++ fs) = streamAnswers key es ++ streamAnswers (es.foldl keyAfter key) fs := by
  induction es generalizing key with
  | nil => rfl
  | cons e es ih =>
    rw [List.cons_append, streamAnswers_cons, ih, streamAnswers_cons key e es, List.foldl_cons, List.append_assoc]

/-- The block commands before a key load are answered under the old key, those after it under the new one, which
stays. -/
theorem streamAnswers_ldkey_between {before after : List Instr} (hbefore : ∀ i ∈ before, ∀ k, i ≠ .ldkey k)
    (hafter : ∀ i ∈ after, ∀ k, i ≠ .ldkey k) (key : Option Key) (new : Key) :
    streamAnswers key (commandStream (before ++ .ldkey new :: after)) =
        before.map (answer key) ++ .ok 0#64 :: after.map (answer (some new)) ∧
      (commandStream (before ++ .ldkey new :: after)).foldl keyAfter key = some new := by
  obtain ⟨hans, hkeep⟩ := streamAnswers_commandStream hbefore key
  obtain ⟨hans', hkeep'⟩ := streamAnswers_commandStream hafter (some new)
  have hstream : commandStream (before ++ .ldkey new :: after) =
      commandStream before ++ .command (encode (.ldkey new)) :: commandStream after := by
    simp [commandStream]
  have hload : keyAfter key (.command (encode (.ldkey new))) = some new := by simp [keyAfter]
  rw [hstream, streamAnswers_append, List.foldl_append, hkeep, hans, List.foldl_cons, streamAnswers, hload, hans',
    hkeep', decode_encode]
  exact ⟨rfl, rfl⟩

end Sys2Proof.Machine

namespace Sys2Proof.Proofs

open Sys2Proof.Machine

/-- Settles O31: the sixteen rounds of `ENC` are `encrypt`, and an answer writes no architectural state; the worked
example by the known vector. -/
theorem encAnswersTheCiphertext : Obligations.EncAnswersTheCiphertext := by
  refine ⟨fun s b => ⟨fun hv => exec_enc_of_keyv hv b, fun hv => (exec_block_nokey hv b).1, fun k => State.keyBits_some,
    fun r => ⟨s.respond_arch r, s.respond_rsps r⟩, (Laws.EncodeFields.fields _).1⟩, fun s hv hkey =>
    ⟨_, exec_enc_of_keyv hv _, ?_⟩⟩
  rw [State.respond_rsps, State.keyBits_some hkey, knownVector.1]

/-- Settles O32: the sixteen rounds of `DEC` are `decrypt`, which `encrypt` inverts; the worked example by the known
vector. -/
theorem decAnswersThePlaintext : Obligations.DecAnswersThePlaintext := by
  refine ⟨fun s b => ⟨fun hv => exec_dec_of_keyv hv b, fun hv => (exec_block_nokey hv b).2, fun k => State.keyBits_some,
    fun r => ⟨s.respond_arch r, s.respond_rsps r⟩, (Laws.EncodeFields.fields _).1⟩, bijective_decrypt,
    fun s hv hkey => ⟨_, exec_dec_of_keyv hv _, ?_⟩⟩
  rw [State.respond_rsps, State.keyBits_some hkey, knownVector.2]

/-- Settles O36: such a command is one answer and nothing else, and the answer is the reference's under the key held. -/
theorem blockAndReservedCommandFrame : Obligations.BlockAndReservedCommandFrame := by
  refine ⟨fun i s t hi h => ?_, fun i s t s' t' _ harch hheld hs ht => ?_⟩
  · obtain ⟨r, hr⟩ := exec_eq_respond hi s
    obtain rfl : s.respond r = t := Host.Outcome.next.inj (hr.symm.trans h)
    exact ⟨rfl, rfl, rfl, rfl, r, rfl, rfl⟩
  · obtain ⟨hkey, hkeyv⟩ := Prod.mk.inj harch
    have htheld : t.KeyHeld := by rw [State.KeyHeld, ← hkeyv, ← hkey, hheld]
    obtain ⟨hrsps, -⟩ := exec_answer hheld hs
    obtain ⟨hrsps', -⟩ := exec_answer htheld ht
    exact ⟨answer s.key i, hrsps, hkey ▸ hrsps'⟩

/-- Settles O37: every command ends in one answer. -/
theorem oneResponsePerCommand : Obligations.OneResponsePerCommand := by
  intro i s
  obtain ⟨t, r, hexec, hrsps, hcmds, -⟩ := exec_next i s
  exact ⟨t, r, hexec, hrsps, hcmds⟩

/-- Settles O39: the stream is answered as the reference says, and in the reference the key held changes at the
`LDKEY` alone. -/
theorem ldkeyIsOrderedAgainstBlocks : Obligations.LdkeyIsOrderedAgainstBlocks := by
  intro s old new before after hrest harch hbefore hafter
  obtain ⟨hkey, hkeyv⟩ := Prod.mk.inj harch
  have hheld : s.KeyHeld := by rw [State.KeyHeld, hkeyv, hkey]; rfl
  obtain ⟨hans, hkeep⟩ := streamAnswers_ldkey_between hbefore hafter (some old) new
  obtain ⟨t, hplay, htkey, htheld, -⟩ :=
    hrest.playEvents_answers hheld (commandStream (before ++ .ldkey new :: after))
  rw [hkey, hans] at hplay
  rw [hkey, hkeep] at htkey
  exact ⟨t, hplay, by rw [htheld.arch_eq, htkey]; rfl⟩

/-- Settles O41: the repeated command finds the key it left and is answered under it as the first time. -/
theorem repeatedCommandsChangeNothingMore : Obligations.RepeatedCommandsChangeNothingMore := by
  intro i s t u hheld hst htu
  obtain ⟨htrsps, htkey, htheld⟩ := exec_answer hheld hst
  obtain ⟨hursps, hukey, huheld⟩ := exec_answer htheld htu
  obtain ⟨hkeep, hsame⟩ := keyAfter_answer_repeat i s.key
  rw [htkey, hkeep, ← htkey] at hukey
  rw [htkey, hsame, htrsps, List.append_assoc] at hursps
  refine ⟨?_, fun hi => ?_, answer s.key i, htrsps, hursps⟩
  · rw [huheld.arch_eq, htheld.arch_eq, hukey]
  · rw [htheld.arch_eq, hheld.arch_eq, htkey, keyAfter_encode hi]

/-- Settles O42: the two commands answer `encrypt` and `decrypt` under the one key, which the first leaves. -/
theorem decOfEncIsTheBlock : Obligations.DecOfEncIsTheBlock := by
  intro s t u b c hv hheld hst htc htu
  obtain ⟨k, hk⟩ := Option.isSome_iff_exists.mp (hheld ▸ hv)
  obtain ⟨htrsps, htkey, htheld⟩ := exec_answer hheld hst
  rw [keyAfter_encode (by simp), hk] at htkey
  obtain ⟨hursps, -⟩ := exec_answer htheld htu
  obtain rfl : encrypt b k = c := by simpa [hk, answer] using htrsps.symm.trans htc
  rw [hursps, htc, htkey, answer, decrypt_encrypt, List.append_assoc]
  rfl

end Sys2Proof.Proofs
end

section
/-! PROOF. The machine at its port: what a step takes, answers and leaves, and what the host's moves do (30_encoding
R107, R108, 70_reset_and_hazards R270 to R279). -/

namespace Sys2Proof.Machine

/-! ### Room, and the oldest word -/

/-- The room for a response is counted by the untaken responses alone. -/
theorem State.hasRoom_congr {s t : State} (h : s.rsps = t.rsps) : s.hasRoom = t.hasRoom := by
  rw [State.hasRoom, State.hasRoom, h]

/-- An engine that holds more responses than it has places has no room. -/
theorem State.hasRoom_eq_false {s : State} (h : Config.rspExtra < s.rsps.length) : s.hasRoom = false := by
  unfold State.hasRoom
  cases hrsps : s.rsps with
  | nil => simp [hrsps] at h
  | cons r more =>
    rw [hrsps, List.length_cons] at h
    exact decide_eq_false (by omega)

/-- An idle engine with room runs the decoded oldest word. -/
theorem step_of_cmds_cons {s : State} {w : CmdWord} {rest : List CmdWord} (hbusy : s.busy = false)
    (hroom : s.hasRoom = true) (hcmds : s.cmds = w :: rest) : step s = exec (decode w) { s with cmds := rest } :=
  step_accept (State.accept_eq_some.mpr ⟨hbusy, hroom, hcmds, rfl⟩)

/-- The command of a table word is that of its low 66 bits, where no higher bit is set. -/
theorem decodeTableWord_eq_some {nbits w : Nat} {i : Instr} :
    decodeTableWord nbits w = some i ↔
      w % 2 ^ nbits < 2 ^ 66 ∧ decode (BitVec.ofNat 66 (w % 2 ^ nbits)) = i := by
  simp [decodeTableWord]

/-- The placed word stands first, on an idle engine; untaken responses are dropped only where there is no room. -/
theorem State.withFetchWord_eq (s : State) {nbits w : Nat} (h : w % 2 ^ nbits < 2 ^ 66) :
    s.withFetchWord nbits w =
      { s with
        cmds := BitVec.ofNat 66 (w % 2 ^ nbits) :: s.cmds
        busy := false
        rsps := if s.hasRoom then s.rsps else [] } :=
  if_pos h

theorem State.hasRoom_withFetchWord (s : State) {nbits w : Nat} (h : w % 2 ^ nbits < 2 ^ 66) :
    (s.withFetchWord nbits w).hasRoom = true := by
  rw [State.withFetchWord_eq s h]
  cases hroom : s.hasRoom with
  | true => exact (State.hasRoom_congr (t := s) rfl).trans hroom
  | false => exact State.hasRoom_of_rsps_nil rfl

/-! ### What a step takes and answers -/

/-- A step of an idle engine waits, or takes the oldest word and gives it one response. -/
theorem step_cmds_rsps_of_idle {s t : State} (hbusy : s.busy = false) (h : step s = .next t) :
    (t.cmds = s.cmds ∧ t.rsps = s.rsps) ∨ ∃ w r, s.cmds = w :: t.cmds ∧ t.rsps = s.rsps ++ [r] := by
  obtain ⟨hb, -⟩ | ⟨-, w, s', hacc, hexec⟩ | ⟨-, -, rfl⟩ := step_cases h
  · exact absurd hb (Bool.eq_false_iff.mp hbusy)
  · obtain ⟨-, -, hcmds, hs'⟩ := State.accept_eq_some.mp hacc
    obtain ⟨u, r, hu, hrsps, hkept, -⟩ := exec_next (decode w) s'
    obtain rfl : u = t := Host.Outcome.next.inj (hu.symm.trans hexec)
    have hearlier : s'.rsps = s.rsps := by rw [hs']
    exact .inr ⟨w, r, hkept ▸ hcmds, hearlier ▸ hrsps⟩
  · exact .inl ⟨rfl, rfl⟩

/-- A step of a busy engine gives the block in flight its response. -/
theorem step_of_busy {s t : State} (hbusy : s.busy = true) (h : step s = .next t) :
    t = s.respond (.ok s.work.complete.result) := by
  rw [← State.completeBlock_eq]
  exact Host.Outcome.next.inj (h.symm.trans (step_busy hbusy))

/-! ### Who writes the key -/

/-- `t` has the key of an `LDKEY` that `s` accepts. -/
def State.LoadsKey (s t : State) : Prop :=
  ∃ w k, s.busy = false ∧ s.hasRoom = true ∧ s.cmds.head? = some w ∧ decode w = .ldkey k ∧ t.arch = (some k, true)

/-- Accepting a word writes no architectural state. -/
theorem State.accept_arch {s s' : State} {w : CmdWord} (h : s.accept = some (w, s')) : s'.arch = s.arch := by
  obtain ⟨-, -, -, hs'⟩ := State.accept_eq_some.mp h
  rw [hs']

/-- Only a step that accepts an `LDKEY` writes `KEY` or `KEYV`. -/
theorem step_arch {s t : State} (h : step s = .next t) : t.arch = s.arch ∨ s.LoadsKey t := by
  obtain ⟨-, rfl⟩ | ⟨hbusy, w, s', hacc, hexec⟩ | ⟨-, -, rfl⟩ := step_cases h
  · exact .inl rfl
  · obtain ⟨-, r, rfl⟩ | ⟨k, hi, rfl⟩ := exec_next_cases hexec
    · exact .inl ((s'.respond_arch r).trans (State.accept_arch hacc))
    · obtain ⟨-, hroom, hcmds, -⟩ := State.accept_eq_some.mp hacc
      exact .inr ⟨w, k, hbusy, hroom, by rw [hcmds, List.head?_cons], hi, s'.loadKey_arch k⟩
  · exact .inl rfl

/-- Only a micro-step that accepts an `LDKEY` writes `KEY` or `KEYV`. -/
theorem microStep_arch (s : State) : (microStep s).arch = s.arch ∨ s.LoadsKey (microStep s) := by
  obtain ⟨-, -, h⟩ | ⟨-, -, h⟩ | ⟨w, s', dir, b, hacc, -, h⟩ | ⟨-, hstep⟩ := microStep_cases s
  · exact .inl (by simp [h])
  · exact .inl (by simp [h])
  · exact .inl (by simpa [h] using State.accept_arch hacc)
  · exact step_arch hstep

/-! ### The record of faults -/

/-- Accepting a word leaves the record. -/
theorem State.accept_recorded {s s' : State} {w : CmdWord} (h : s.accept = some (w, s')) :
    s'.recorded = s.recorded := by
  obtain ⟨-, -, -, hs'⟩ := State.accept_eq_some.mp h
  rw [hs']

/-- A step keeps the first fault recorded. -/
theorem step_recorded {s t : State} {f : Fault} (hf : s.recorded = some f) (h : step s = .next t) :
    t.recorded = some f := by
  obtain ⟨-, rfl⟩ | ⟨-, w, s', hacc, hexec⟩ | ⟨-, -, rfl⟩ := step_cases h
  · rw [State.completeBlock_recorded, hf, Option.some_or]
  · obtain ⟨u, r, hu, -, -, -, hrec⟩ := exec_next (decode w) s'
    obtain rfl : u = t := Host.Outcome.next.inj (hu.symm.trans hexec)
    rw [hrec, State.accept_recorded hacc, hf, Option.some_or]
  · exact hf

/-- A micro-step keeps the first fault recorded. -/
theorem microStep_recorded {s : State} {f : Fault} (hf : s.recorded = some f) :
    (microStep s).recorded = some f := by
  obtain ⟨-, -, h⟩ | ⟨-, -, h⟩ | ⟨w, s', dir, b, hacc, -, h⟩ | ⟨-, hstep⟩ := microStep_cases s
  · rw [h, State.roundBlock_recorded, hf]
  · rw [h, State.finishBlock_recorded, hf, Option.some_or]
  · rw [h, State.startBlock_recorded, State.accept_recorded hacc, hf]
  · exact step_recorded hf hstep

/-- Exactly the answers `OK` are no fault. -/
theorem Response.fault?_eq_none_iff (r : Response) : r.fault? = none ↔ ∃ v, r = .ok v := by
  cases r <;> simp [Response.fault?]

/-! ### Reset -/

/-- Reset leaves the power-up state, but for the transient registers, the counter of the free values and the record. -/
theorem State.assertReset_eq (s : State) :
    s.assertReset =
      { State.reset with work := Work.undefined s.free, recorded := s.recorded, free := s.free + 1 } := rfl

end Sys2Proof.Machine

namespace Sys2Proof.Proofs

open Sys2Proof.Machine

/-- Settles O43: the acceptance takes the oldest word and changes nothing else. -/
theorem stepRunsTheDecodedCommand : Obligations.StepRunsTheDecodedCommand :=
  fun _ _ _ => step_of_cmds_cons

/-- Settles O44: with nothing offered, or no room, no word is accepted. -/
theorem idleEngineWaits : Obligations.IdleEngineWaits := by
  refine ⟨fun s hbusy hwait => step_wait hbusy (State.accept_eq_none.mpr ?_), fun s => State.hasRoom_of_rsps_nil⟩
  obtain hcmds | hroom := hwait
  · exact .inr hcmds
  · exact .inl (by rw [State.cmdReady, hroom, Bool.and_false])

/-- Settles O45: a step takes one word for one response or takes none; the port shows the head of the list of
responses, and the engine is not ready once the list is longer than its places. -/
theorem nothingIsDroppedOrOverwritten : Obligations.NothingIsDroppedOrOverwritten := by
  refine ⟨fun s t => step_cmds_rsps_of_idle, fun s t hbusy h => ?_, fun s r rest hrsps => ?_, fun s hrsps => ?_,
    ⟨Config.rspExtra + 1, fun s hn => ?_⟩, fun s hbusy hrsps => ?_⟩
  · obtain rfl := step_of_busy hbusy h
    exact ⟨rfl, _, rfl⟩
  · simp [State.rspValid, State.rspWord, State.takeResponse, hrsps]
  · simp [State.rspValid, State.rspWord, State.takeResponse, hrsps]
  · rw [State.cmdReady, State.hasRoom_eq_false (Nat.lt_of_succ_le hn), Bool.and_false]
  · rw [State.cmdReady, hbusy, State.hasRoom_of_rsps_nil hrsps]
    rfl

/-- Settles O46: the placed word is the oldest, on an idle engine with room. -/
theorem offeredWordRunsNext : Obligations.OfferedWordRunsNext := by
  intro s nbits w i h
  obtain ⟨hbits, rfl⟩ := decodeTableWord_eq_some.mp h
  have hroom := s.hasRoom_withFetchWord hbits
  rw [s.withFetchWord_eq hbits] at hroom ⊢
  exact step_of_cmds_cons rfl hroom rfl

/-- Settles O47: each of the three things a step does answers a state with the engine idle. -/
theorem stepNeverStopsNorStallsHalfway : Obligations.StepNeverStopsNorStallsHalfway := exists_step

/-- Settles O48: an answer, a start, a round and a finish write no architectural state, and a key load writes the
operand and 1. -/
theorem onlyLdkeyAndResetWriteTheKey : Obligations.OnlyLdkeyAndResetWriteTheKey := by
  refine ⟨fun s t h => ?_, fun s => ⟨fun w => rfl, fun r t h => ?_, rfl⟩⟩
  · obtain hstep | rfl := h
    · exact step_arch hstep
    · exact microStep_arch s
  · obtain ⟨-, ht⟩ := State.takeResponse_eq_some.mp h
    rw [ht]

/-- Settles O53: reset leaves the power-up state but for what comes of the counter and the record; a step completes the
block in flight. -/
theorem resetDropsTheCommandInFlight : Obligations.ResetDropsTheCommandInFlight := by
  refine ⟨fun s => ⟨rfl, rfl, rfl, rfl⟩, fun s t hfree hrec => ?_, fun s hbusy => ?_⟩
  · rw [State.assertReset_eq, State.assertReset_eq, hfree, hrec]
  · exact ⟨s.completeBlock, _, step_busy hbusy, rfl, rfl, rfl⟩

/-- Settles O54: a fault is recorded by `Option.or`, which keeps the first, and the moves of the host leave the
record. -/
theorem firstFaultIsKept : Obligations.FirstFaultIsKept := by
  refine ⟨fun s t f hf h => ⟨step_recorded hf h, microStep_recorded hf, hf, fun w => hf, fun r u hu => ?_⟩,
    fun i s t hnone h => ?_⟩
  · obtain ⟨-, hu⟩ := State.takeResponse_eq_some.mp hu
    rw [hu]
    exact hf
  · obtain ⟨u, r, hu, hrsps, -, -, hrec⟩ := exec_next i s
    obtain rfl : u = t := Host.Outcome.next.inj (hu.symm.trans h)
    rw [State.NoFault, hrec, hnone, Option.none_or, hrsps, Response.fault?_eq_none_iff]
    simp

/-- Settles O55: the view is the flag as one bit. -/
theorem statusCopiesKeyv : Obligations.StatusCopiesKeyv := by
  intro s
  rw [State.keyValid, State.status]
  cases s.keyv <;> decide

end Sys2Proof.Proofs
end
